-- ==== Sys2Proof/Word.lean ====
section
/-! DEFINITION. Word.lean: the one word type of the block.

Every wire field and every register that holds wire data is one byte (spec R8, R46: "single-byte fields, no
multi-byte integers"); counters and lengths are small natural numbers (R9, R13, R14, R19). -/

namespace Sys2Proof

/-- A byte: an unsigned integer in 0..255, bit 7 the most significant (R8). -/
abbrev Byte := BitVec 8

end Sys2Proof
end

