-- ==== Sys2Proof/Config.lean ====
section
/-! DEFINITION. Config.lean: the constants the frame protocol fixes (R5, R28), the parameters the spec leaves to the
implementation (R7), and the values nothing in the spec fixes (opaque constants without a body). -/

namespace Sys2Proof.Config

/-- `SYNC`: the sync marker, first byte of every frame (R5). -/
abbrev sync : Byte := 0xAA

/-- `OVERHEAD`: the bytes of a frame that are not payload (R5). -/
abbrev overhead : Nat := 4

/-- `MIN_LEN`: the least legal value of the length byte (R5). -/
abbrev minLen : Nat := 4

/-- `MAX_LEN`: the greatest legal value of the length byte, and the greatest frame size in bytes (R5). -/
abbrev maxLen : Nat := 64

/-- `MAX_PAYLOAD`: the greatest payload size in bytes (R5). -/
abbrev maxPayload : Nat := 60

/-- `BUF_CAP`: capacity of `rx_buf` and of `tx_buf` in bytes (R7, R29, R30; decision D9 of the spec). -/
abbrev bufCap : Nat := 64

/-- `HS_ID`: the identifier reserved for the handshake (R5). -/
abbrev hsId : Byte := 0xFF

/-- `HS_REQUEST`: the handshake request sentinel, a payload value (R5). -/
abbrev hsRequest : Byte := 0x00

/-- `HS_OK`: the sentinel of a confirmation that succeeded, a payload value (R5). -/
abbrev hsOk : Byte := 0xAA

/-- `HS_ERROR`: the sentinel of a confirmation that failed, a payload value (R5). -/
abbrev hsError : Byte := 0xFF

/-- The values of `RX_PARTIAL_POLICY` (R7, R101). -/
inductive RxPartialPolicy where
  | persist
  | dropAtPollStart
  deriving DecidableEq, Repr

/-- The parameters of R7 that have a value a claim may quantify over. They are fixed for a machine: no step writes
them (R37). Log 15. -/
structure Params where
  /-- `HS_LOCKED`: the reserved registry entry cannot be rebound (R114; spec U4). -/
  hsLocked : Bool
  /-- `RX_PARTIAL_POLICY` (R101; spec U14). -/
  rxPartialPolicy : RxPartialPolicy
  deriving DecidableEq, Repr

/-- The values the spec decides for the parameters (R7: `true`, `persist`). -/
def defaultParams : Params := { hsLocked := true, rxPartialPolicy := .persist }

/-- The byte on the configuration input `node_id_in` when the block is first reset: "argument of the model", any
byte, none excluded (R7, R26, spec U16). It has no body, so no proof can rest on a value of it. Log 2. -/
opaque nodeIdIn : Byte

/-- The transport's write-error flag in the launch state: "an unconstrained input" (R24, R142, spec U6). It has no
body. Log 3. -/
opaque werrAtStart : Bool

/-- What a read of `rx_len` gives while `rx_len` is invalid: "any value" (spec U5), one for each position in the event
history. It has no body. Log 24. -/
opaque invalidRxLen : Nat → Nat

/-- What a read of `rx_handler` gives while `rx_handler` is invalid: "any value" (spec U5), `none` for the tag `HS` and
`some n` for the user tag `n`. It has no body. Log 24. -/
opaque invalidRxHandler : Nat → Option Nat

end Sys2Proof.Config
end

