-- ==== Sys2Proof/Syntax.lean ====
section
/-! DEFINITION. Syntax.lean: the instructions, one constructor for each of the 15 rows of spec/opcode_table.json (R79).

"Instruction" has three readings on this block (spec 00_scope.md section 5): a wire frame, one RX byte step, and a
host operation. -/

namespace Sys2Proof

/-- A handler tag: opaque to the block, with the one distinguished value `HS` that names the built-in handshake
responder (R7, R27; spec D14). Its width `HANDLER_W` is open, so a tag is a number without a bound. Log 4. -/
inductive Handler where
  | hs
  | user (tag : Nat)
  deriving DecidableEq, Repr

/-- The four host operations with their operands (R36, R79). -/
inductive HostOp where
  | poll
  | send (id : Byte) (payload : List Byte)
  | register (id : Byte) (h : Handler)
  | getNodeId
  deriving DecidableEq, Repr

/-- The instructions. A frame is given by its free fields alone: `SYNC`, `LEN` and `CHECKSUM` are functions of them
(R60, R61, R63). -/
inductive Instr where
  /-- `CMD id, payload`: a received user frame (R67, R78, R97). -/
  | cmd (id : Byte) (payload : List Byte)
  /-- `HS.REQ`: a received handshake frame with `P[0] = 0x00`; `rest` is `P[1..]` (R68, R119, R121). -/
  | hsReq (rest : List Byte)
  /-- `HS.CONFIRM candidate`: a received handshake frame with `P[0] = candidate`, not 0x00 (R68, R119). -/
  | hsConfirm (candidate : Byte) (rest : List Byte)
  /-- `HS.EMPTY`: a received handshake frame with an empty payload (R122). -/
  | hsEmpty
  /-- `HS.ID node`: the transmitted reply to `HS.REQ` (R69, R78). -/
  | hsId (node : Byte)
  /-- `HS.OK`: the transmitted reply to a matching `HS.CONFIRM` (R69, R78). -/
  | hsOk
  /-- `HS.ERR`: the transmitted reply to a non-matching `HS.CONFIRM` (R69, R78). -/
  | hsErr
  /-- `RX.SYNC`: the byte step of `AwaitSync` (R88). -/
  | rxSync (b : Byte)
  /-- `RX.LEN`: the byte step of `AwaitLength` (R89). -/
  | rxLen (b : Byte)
  /-- `RX.ID`: the byte step of `AwaitIdentifier` (R90). -/
  | rxId (b : Byte)
  /-- `RX.ACC`: the byte step of `AccumulatePayload` (R91). -/
  | rxAcc (b : Byte)
  /-- `POLL` (R98). -/
  | poll
  /-- `SEND id, payload` (R106). -/
  | send (id : Byte) (payload : List Byte)
  /-- `REGISTER id, h` (R113). -/
  | register (id : Byte) (h : Handler)
  /-- `GETNODEID` (R117). -/
  | getNodeId
  deriving DecidableEq, Repr

end Sys2Proof
end

