-- ==== Sys2Proof/WellFormed.lean ====
section
/-! DEFINITION. WellFormed.lean: which operands the rows of spec/opcode_table.json admit.

A `SEND` with more than 60 payload bytes is no well-formed instruction (R106: operands `P` with `|P| <= 60`), yet the
machine gives it the effect of R107. -/

namespace Sys2Proof

/-- The constraints of the opcode table on an instruction's operands. -/
def Instr.wf : Instr → Bool
  | .cmd id payload => decide (id ≠ Config.hsId) && decide (payload.length ≤ Config.maxPayload)
  | .hsReq rest => decide (rest.length + 1 ≤ Config.maxPayload)
  | .hsConfirm c rest => decide (c ≠ Config.hsRequest) && decide (rest.length + 1 ≤ Config.maxPayload)
  | .hsEmpty => true
  | .hsId _ => true
  | .hsOk => true
  | .hsErr => true
  | .rxSync _ => true
  | .rxLen _ => true
  | .rxId _ => true
  | .rxAcc _ => true
  | .poll => true
  | .send _ payload => decide (payload.length ≤ Config.maxPayload)
  | .register _ _ => true
  | .getNodeId => true

/-- The rows that only the block itself transmits (R69, R79): their bytes, when received, are an `HS.REQ` or
`HS.CONFIRM` frame. -/
def Instr.transmittedOnly : Instr → Bool
  | .hsId _ => true
  | .hsOk => true
  | .hsErr => true
  | .cmd _ _ => false
  | .hsReq _ => false
  | .hsConfirm _ _ => false
  | .hsEmpty => false
  | .rxSync _ => false
  | .rxLen _ => false
  | .rxId _ => false
  | .rxAcc _ => false
  | .poll => false
  | .send _ _ => false
  | .register _ _ => false
  | .getNodeId => false

end Sys2Proof
end

