-- ==== Sys2Proof/Decode.lean ====
section
/-! DEFINITION. Decode.lean: from bits to instructions and back.

A frame is a byte sequence (R60 to R69). A byte step is named by the two-bit state code of R12 with the received byte
as its operand (R79). A host operation has no bit encoding: it is a request on a port of its own (R36, R79). The
registry is no part of decoding a frame: whether an identifier is known is the machine's matter (R72). -/

namespace Sys2Proof

/-! ## The checksum function -/

/-- `XOR(s)` (R80); `XOR([]) = 0x00`. -/
def xorSum : List Byte → Byte
  | [] => 0x00
  | b :: bs => b ^^^ xorSum bs

/-! ## Frames -/

/-- `encode(id, P)` of R64: `F ++ [XOR(F)]` with `F = [0xAA, |P| + 4, id] ++ P`. R64 does not define it for `|P| > 60`.
DESIGN CHOICE (log 25): this function is total and gives the same bytes there, with the length byte `|P| + 4` modulo 256;
no step evaluates it and no statement rests on those values. -/
def encodeFrame (id : Byte) (payload : List Byte) : List Byte :=
  let f := [Config.sync, BitVec.ofNat 8 (payload.length + Config.overhead), id] ++ payload
  f ++ [xorSum f]

/-- A well-formed frame (R65): the sync byte, a legal length byte that is the length, and the checksum. -/
def wellFormedFrame (s : List Byte) : Bool :=
  match s with
  | b0 :: b1 :: _ =>
    decide (4 ≤ s.length) && decide (b0 = Config.sync) &&
      decide (Config.minLen ≤ b1.toNat ∧ b1.toNat ≤ Config.maxLen) && decide (s.length = b1.toNat) &&
      decide (s.getLast? = some (xorSum s.dropLast))
  | _ => false

/-- The row of the opcode table a decoded pair (identifier, payload) belongs to (R67, R68). -/
def frameInstr (id : Byte) (payload : List Byte) : Instr :=
  if id = Config.hsId then
    match payload with
    | [] => .hsEmpty
    | p :: rest => if p = Config.hsRequest then .hsReq rest else .hsConfirm p rest
  else .cmd id payload

/-- The ways a byte sequence is rejected before the registry is asked, named as R123 names them (R70, R71, R73);
`truncated` is a sequence that ends before its length byte says (R75). -/
inductive DecodeError where
  | syncError (b : Byte)
  | lengthError (b : Byte)
  | checksumMismatch (computed received : Byte)
  | truncated
  deriving DecidableEq, Repr

/-- What decoding answers: an instruction and the bytes after it, or a rejection by name. -/
inductive DecodeResult where
  | ok (i : Instr) (rest : List Byte)
  | bad (e : DecodeError)
  deriving DecidableEq, Repr

/-- Decode the frame at the front of a received byte sequence; total, one test a field in stream order (R131). -/
def decodeFrame : List Byte → DecodeResult
  | [] => .bad .truncated
  | b0 :: r0 =>
    if b0 ≠ Config.sync then .bad (.syncError b0)
    else match r0 with
      | [] => .bad .truncated
      | b1 :: r1 =>
        if b1.toNat < Config.minLen ∨ Config.maxLen < b1.toNat then .bad (.lengthError b1)
        else match r1 with
          | [] => .bad .truncated
          | id :: r2 =>
            let n := b1.toNat - Config.overhead
            match r2.drop n with
            | [] => .bad .truncated
            | c :: rest =>
              let computed := xorSum ([b0, b1, id] ++ r2.take n)
              if c = computed then .ok (frameInstr id (r2.take n)) rest
              else .bad (.checksumMismatch computed c)

/-- The identifier and the payload of a received frame's instruction (R66). -/
def Instr.frame? : Instr → Option (Byte × List Byte)
  | .cmd id payload => some (id, payload)
  | .hsReq rest => some (Config.hsId, Config.hsRequest :: rest)
  | .hsConfirm c rest => some (Config.hsId, c :: rest)
  | .hsEmpty => some (Config.hsId, [])
  | .hsId node => some (Config.hsId, [node])
  | .hsOk => some (Config.hsId, [Config.hsOk])
  | .hsErr => some (Config.hsId, [Config.hsError])
  | .rxSync _ => none
  | .rxLen _ => none
  | .rxId _ => none
  | .rxAcc _ => none
  | .poll => none
  | .send _ _ => none
  | .register _ _ => none
  | .getNodeId => none

/-! ## Byte steps -/

/-- The byte step a two-bit state code selects, with the received byte as its operand (R12, R79, R87). -/
def decodeByteStep (code : BitVec 2) (b : Byte) : Instr :=
  match code.toNat with
  | 0 => .rxSync b
  | 1 => .rxLen b
  | 2 => .rxId b
  | _ => .rxAcc b

/-! ## Host operations -/

/-- The instruction a host operation is (R79). -/
def HostOp.instr : HostOp → Instr
  | .poll => .poll
  | .send id payload => .send id payload
  | .register id h => .register id h
  | .getNodeId => .getNodeId

/-! ## One encoding type for the three kinds of row -/

/-- What an instruction looks like from outside (R79): bytes of the stream, a state code with the received byte, or a
request on a host port. -/
inductive Encoded where
  | frame (bytes : List Byte)
  | byteStep (code : BitVec 2) (b : Byte)
  | request (op : HostOp)
  deriving DecidableEq, Repr

/-- The decoder, total on any encoding. -/
def decode : Encoded → DecodeResult
  | .frame bytes => decodeFrame bytes
  | .byteStep code b => .ok (decodeByteStep code b) []
  | .request op => .ok op.instr []

/-- The encoder, written from R64, R69, R78 and R79. -/
def encode : Instr → Encoded
  | .cmd id payload => .frame (encodeFrame id payload)
  | .hsReq rest => .frame (encodeFrame Config.hsId (Config.hsRequest :: rest))
  | .hsConfirm c rest => .frame (encodeFrame Config.hsId (c :: rest))
  | .hsEmpty => .frame (encodeFrame Config.hsId [])
  | .hsId node => .frame (encodeFrame Config.hsId [node])
  | .hsOk => .frame (encodeFrame Config.hsId [Config.hsOk])
  | .hsErr => .frame (encodeFrame Config.hsId [Config.hsError])
  | .rxSync b => .byteStep 0 b
  | .rxLen b => .byteStep 1 b
  | .rxId b => .byteStep 2 b
  | .rxAcc b => .byteStep 3 b
  | .poll => .request .poll
  | .send id payload => .request (.send id payload)
  | .register id h => .request (.register id h)
  | .getNodeId => .request .getNodeId

/-! ## Words as spec/opcode_table.json numbers them -/

/-- The four bytes of a `FRAME` row's word, offset 0 first: the table's `match` lists the bytes first byte first, so
frame offset 0 is bits 31..24 (R79). -/
def tableBytes (w : Nat) : List Byte :=
  [BitVec.ofNat 8 (w / 0x1000000), BitVec.ofNat 8 (w / 0x10000), BitVec.ofNat 8 (w / 0x100), BitVec.ofNat 8 w]

/-- The byte sequence of a `FRAME` row's word. The table gives a frame its offsets 0 to 3 only; the payload bytes it
gives no bits are 0, and the last byte is the checksum of the bytes before it (R63), which is no operand. With a
length byte of 4 or less nothing follows the four bytes. Log 19. -/
def tableFrame (w : Nat) : List Byte :=
  let head := tableBytes w
  let len := (BitVec.ofNat 8 (w / 0x10000)).toNat
  if len ≤ 4 then head
  else
    let body := head ++ List.replicate (len - 5) (0 : Byte)
    body ++ [xorSum body]

/-- What the decoder reads from a word of the opcode table: 32 bits are the first four bytes of a frame, a word of at
most one byte is the state code of a byte step whose received byte is 0 (the table gives that operand no bits). -/
def decodeTableWord (nbits w : Nat) : Option Instr :=
  if nbits = 32 then
    match decode (.frame (tableFrame w)) with
    | .ok i _ => some i
    | .bad _ => none
  else if 0 < nbits ∧ nbits ≤ 8 then
    match decode (.byteStep (BitVec.ofNat 2 w) 0) with
    | .ok i _ => some i
    | .bad _ => none
  else none

end Sys2Proof
end

