-- ==== Sys2Proof/Machine/Memory.lean ====
section
/-! DEFINITION. Machine/Memory.lean: sparse tables in one canonical form, for the block's three small memories
`rx_buf`, `tx_buf` and `REG` (R38).

A table lists (key, value) pairs with strictly rising keys. A key that is not listed holds no value: an entry of a
buffer that nothing has written ("invalid", R29, R30), an identifier without a handler (`none`, R27). -/

namespace Sys2Proof.Machine

/-- A sparse table. -/
abbrev Table (α : Type) := List (Nat × α)

/-- The value a key holds, if any. -/
def tableGet {α : Type} : Table α → Nat → Option α
  | [], _ => none
  | (k, v) :: t, i => if k = i then some v else tableGet t i

/-- Write one key, keeping the keys strictly rising. -/
def tableSet {α : Type} : Table α → Nat → α → Table α
  | [], i, x => [(i, x)]
  | (k, v) :: t, i, x =>
    if i < k then (i, x) :: (k, v) :: t
    else if i = k then (i, x) :: t
    else (k, v) :: tableSet t i x

/-- The canonical form: strictly rising keys, all from `lo` on and below `hi`. -/
def tableWf {α : Type} : Table α → Nat → Nat → Bool
  | [], _, _ => true
  | (k, _) :: t, lo, hi => decide (lo ≤ k) && decide (k < hi) && tableWf t (k + 1) hi

/-- A byte memory: the cells that hold a byte. Reading any other cell is a fault (log 5). -/
abbrev Memory := List Host.Cell

/-- The canonical form of a buffer of 64 bytes (R29, R30): strictly rising indices below `BUF_CAP`. An unlisted index
holds no value, so there is no value a listed entry may not have. -/
def Memory.wf (m : Memory) : Bool := tableWf m 0 64

end Sys2Proof.Machine
end

