-- ==== Sys2Proof/Machine/State.lean ====
section
/-! DEFINITION. Machine/State.lean: the state of one instance of the block (R11), of the transport it reads and writes
(R31, R32, R24), and of the agents around it (R10), with the reasons a step can stop and the state after reset
(R142). -/

namespace Sys2Proof.Machine

/-- `rx_state`: the four stored states of the framer (R12). -/
inductive RxState where
  | awaitSync
  | awaitLength
  | awaitIdentifier
  | accumulatePayload
  deriving DecidableEq, Repr

/-- `tx_phase` (R21). -/
inductive TxPhase where
  | idle
  | flushing
  deriving DecidableEq, Repr

/-- A decoded frame handed to a handler: identifier, handler tag, payload (R18). -/
structure Dispatch where
  id : Byte
  handler : Handler
  payload : List Byte
  deriving DecidableEq, Repr

/-- Why a `send` is refused (R107). -/
inductive RefuseReason where
  | payloadTooLong
  deriving DecidableEq, Repr

/-- The outcome labels of a byte step (R128). -/
inductive RxOutcome where
  | consumed
  | syncError (b : Byte)
  | lengthError (b : Byte)
  | unknownIdentifier (b : Byte)
  | checksumMismatch (computed received : Byte)
  | dispatched (id : Byte) (h : Handler) (payload : List Byte)
  | bufferOverrun
  deriving DecidableEq, Repr

/-- The externally visible events, in the order a model records them (R45). -/
inductive Event where
  | read (b : Byte)
  | outcome (o : RxOutcome)
  | dispatch (id : Byte) (h : Handler) (payload : List Byte)
  | handlerReturn
  | write (s : List Byte)
  | flushDone
  | sendRefused (r : RefuseReason)
  | register (id : Byte) (h : Handler) (ok : Bool)
  | pollStart
  | pollEnd
  deriving DecidableEq, Repr

/-- What one step of the schedule is (R10, R44): the block takes its next own step, or an agent around it acts. A
schedule is this model's "program" (spec 00_scope.md section 5, 95_test_vectors.md section 3). Log 1. -/
inductive Move where
  /-- The block takes its next step. -/
  | block
  /-- Transport-RX: a byte arrives at the tail of `RXQ` (R44; log 14). -/
  | arrive (b : Byte)
  /-- Transport-TX: the head of `TXQ` is sent (R44). -/
  | sent
  /-- Transport-TX: it accepted fewer bytes than written; the last `n` bytes of `TXQ` are lost (R41, spec U6; log 16). -/
  | lost (n : Nat)
  /-- Transport-TX: it sets or clears its write-error flag (R24, spec U6; log 16). -/
  | writeError (v : Bool)
  /-- The reset input, with the byte on `node_id_in` (R141). -/
  | rst (nodeIdIn : Byte)
  /-- The host invokes an operation (R10). -/
  | request (op : HostOp)
  /-- The running user handler invokes an operation (R97; log 17). -/
  | handlerCall (op : HostOp)
  /-- The running user handler returns (R97). -/
  | handlerReturn
  deriving DecidableEq, Repr

/-- The RX registers and `rx_buf`: the source's Parser State (R12 to R16, R29). -/
structure RxRegs where
  /-- `rx_state` (R12). -/
  state : RxState
  /-- `rx_cnt` (R13). -/
  cnt : Nat
  /-- `rx_len`, or invalid (R14). -/
  len : Option Nat
  /-- `rx_handler`, or invalid (R15). -/
  handler : Option Handler
  /-- `rx_chk` (R16). -/
  chk : Byte
  /-- `rx_buf[0..63]`; the entries at indices below `rx_cnt` are valid (R29). -/
  buf : Memory
  deriving DecidableEq, Repr

/-- The TX registers and `tx_buf` (R19 to R21, R30). -/
structure TxRegs where
  /-- `tx_cnt` (R19). -/
  cnt : Nat
  /-- `tx_chk` (R20). -/
  chk : Byte
  /-- `tx_buf[0..63]`; the entries at indices below `tx_cnt` are valid (R30). -/
  buf : Memory
  /-- `tx_phase` (R21). -/
  phase : TxPhase
  deriving DecidableEq, Repr

/-- The transport, outside the block (R31, R32, R24). -/
structure Transport where
  /-- `RXQ`, oldest byte first (R31). -/
  rxq : List Byte
  /-- `TXQ`, oldest byte first (R32). -/
  txq : List Byte
  /-- `WERR`, the write-error flag (R24). -/
  werr : Bool
  deriving DecidableEq, Repr

/-- The state. -/
structure State where
  /-- The RX registers (R11). -/
  rx : RxRegs
  /-- `poll_active` (R17). -/
  pollActive : Bool
  /-- The poll's own position: line 4 of R98 is the next line of the poll in progress (log 6). -/
  pollEnding : Bool
  /-- `disp` (R18). -/
  disp : Option Dispatch
  /-- The frame of `disp` once its handler has been invoked with it, until that handler returns (R97; log 6). -/
  active : Option Dispatch
  /-- The TX registers (R11). -/
  tx : TxRegs
  /-- Operations held until the `send` in progress has returned, oldest first: a `send` raised during a flush (R110), and
  what the running handler does after its own `send` (R55; log 17). -/
  held : List HostOp
  /-- The running handler has returned, but for the `send` of its own that is still in progress (R97, R106; log 17). -/
  handlerReturning : Bool
  /-- `REG[0..255]` (R27). -/
  reg : Table Handler
  /-- `NODE_ID` (R26). -/
  nodeId : Byte
  /-- The transport (R31, R32, R24). -/
  tp : Transport
  /-- The parameters `HS_LOCKED` and `RX_PARTIAL_POLICY` (R7, R37). -/
  params : Config.Params
  /-- Host operations invoked and not yet begun, oldest first (R10, spec U13; log 7). -/
  hostReq : List HostOp
  /-- The schedule: what the agents around the block do, and when (R44; log 1). -/
  sched : List Move
  /-- The event history (R45). -/
  events : List Event
  /-- The byte the last `getNodeID` returned to its caller (R117; log 8). -/
  result : Option Byte
  deriving DecidableEq, Repr

/-- The reasons the machine stops with a fault. -/
inductive Fault where
  /-- Raised by `transportRead` on an empty `RXQ` (R40, spec U9). Safe: the block tests availability first. -/
  | readEmptyRxq
  /-- Raised by a buffer access at an index of 64 or more, which no buffer has (R29, R30). Safe: unreachable (R34). -/
  | bufferIndex
  /-- Raised by a read of a buffer entry that is invalid (R29, R30, spec D11). Safe: unreachable (R34). -/
  | invalidEntry
  /-- Raised by a byte step that `rx_state` does not select (R87). Safe: the block never takes it. -/
  | byteStepNotSelected
  /-- Raised by the meaning of a received frame that is not the one in `disp`, or whose handler already runs (R97: a
  handler is invoked exactly once). Safe: the block never takes it. -/
  | frameNotDispatched
  /-- Raised by a schedule in which a user handler acts or returns while none runs (R97; log 17), also because a reset has
  abandoned its dispatch (R141; log 10). Safe: no claim can be made past it. -/
  | noHandlerRunning
  deriving DecidableEq, Repr

/-- The reasons the machine gives no meaning. -/
inductive Refusal where
  /-- Raised by `exec` for an instruction that has no meaning yet. Safe. -/
  | notModelled (mnemonic : String)
  /-- Raised by `POLL` while a poll is in progress (R102, spec U3). Safe: no claim can be made past it. -/
  | pollReentered
  deriving DecidableEq, Repr

/-- The RX registers after reset and after `rx_reset()`, with an empty `rx_buf` (R142). -/
def RxRegs.reset : RxRegs :=
  { state := .awaitSync, cnt := 0, len := none, handler := none, chk := 0x00, buf := [] }

/-- The TX registers after reset (R142). -/
def TxRegs.reset : TxRegs := { cnt := 0, chk := 0x00, buf := [], phase := .idle }

/-- The registry after reset: the reserved entry alone (R27, R142). -/
def registryReset : Table Handler := [(255, Handler.hs)]

/-- The machine right after reset, in the launch state of the spec: R142 for the block, empty queues for the transport
(R31; log 3), no operation invoked and nothing scheduled. -/
def State.reset : State :=
  { rx := RxRegs.reset
    pollActive := false
    pollEnding := false
    disp := none
    active := none
    tx := TxRegs.reset
    held := []
    handlerReturning := false
    reg := registryReset
    nodeId := Config.nodeIdIn
    tp := { rxq := [], txq := [], werr := Config.werrAtStart }
    params := Config.defaultParams
    hostReq := []
    sched := []
    events := []
    result := none }

end Sys2Proof.Machine
end

