-- ==== Sys2Proof/Machine/Flags.lean ====
section
/-! DEFINITION. Machine/Flags.lean: the block's conditions and its one status flag (R24, R25), and every comparison
of its arithmetic (R86). All comparisons are unsigned (R8). -/

namespace Sys2Proof.Machine

/-- The sync test (R88): the whole byte equals `SYNC`. -/
abbrev syncTest (b : Byte) : Prop := b = Config.sync

/-- The length test (R89): `4 <= b` and `b <= 64`, unsigned. -/
abbrev lengthTest (b : Byte) : Prop := Config.minLen ≤ b.toNat ∧ b.toNat ≤ Config.maxLen

/-- The test of R91 that the byte now taken is still a payload byte: `rx_cnt + 1 < rx_len`. -/
abbrev payloadByteTest (cnt len : Nat) : Prop := cnt + 1 < len

/-- The checksum-match condition (R25, R92): evaluated in the completing step, stored nowhere. -/
abbrev checksumMatch (chk b : Byte) : Prop := chk = b

/-- The payload of a `send` is too long (R107). -/
abbrev payloadTooLong (payload : List Byte) : Prop := Config.maxPayload < payload.length

/-- The unreachable overrun condition (R96). -/
abbrev overrunTest (cnt : Nat) : Prop := Config.bufCap ≤ cnt

/-- `TransportWriteError()` (R43): the transport's flag, unchanged; also the output `tx_error` (R24, R36). -/
def transportWriteError (s : State) : Bool := s.tp.werr

/-- The block is quiescent (R157). -/
abbrev quiescent (s : State) : Prop := s.pollActive = false ∧ s.tx.phase = .idle ∧ s.disp = none

end Sys2Proof.Machine
end

