-- ==== Sys2Proof/Machine/Operands.lean ====
section
/-! DEFINITION. Machine/Operands.lean: reading and writing the operands of the block: buffer entries and slices (R29,
R30, R38), the registers that can be invalid (R14, R15), the registry (R115), and the codes of states and outcomes
(R12, R128). -/

namespace Sys2Proof.Machine

/-- An answer of an operation: a value to go on with, a fault or a refusal. -/
abbrev Ans (α : Type) := Host.Outcome α Fault Refusal

/-- Go on with the value of an operation, or stop as it stops. -/
def andThen {α β : Type} (a : Ans α) (k : α → Ans β) : Ans β :=
  match a with
  | .next x => k x
  | .fault f => .fault f
  | .refused r => .refused r

/-- `buf[i] <- b`: a buffer has the indices 0..63 (R38). -/
def bufStore (m : Memory) (i : Nat) (b : Byte) : Ans Memory :=
  if i < Config.bufCap then .next (tableSet m i b) else .fault .bufferIndex

/-- `buf[i]`, where the entries below `valid` are the valid ones (R29, R30). -/
def bufLoad (valid : Nat) (m : Memory) (i : Nat) : Ans Byte :=
  if i < Config.bufCap then
    if i < valid then
      match tableGet m i with
      | some b => .next b
      | none => .fault .invalidEntry
    else .fault .invalidEntry
  else .fault .bufferIndex

/-- The `n` entries of a buffer from index `i` on, in index order (R8: an inclusive slice, empty when `n` is 0). -/
def bufSlice (valid : Nat) (m : Memory) (i : Nat) : Nat → Ans (List Byte)
  | 0 => .next []
  | n + 1 =>
    andThen (bufLoad valid m i) fun b =>
      andThen (bufSlice valid m (i + 1) n) fun bs => .next (b :: bs)

/-- `rx_len` as a byte step reads it (R14). While it is invalid the value read is a free value (spec U5; log 24). -/
def readLen (s : State) : Nat := s.rx.len.getD (Config.invalidRxLen s.events.length)

/-- A handler tag from a number, `HS` without one. -/
def handlerOf : Option Nat → Handler
  | none => .hs
  | some n => .user n

/-- `rx_handler` as the completing step reads it (R15). While it is invalid the value read is a free value (spec U5;
log 24). -/
def readHandler (s : State) : Handler := s.rx.handler.getD (handlerOf (Config.invalidRxHandler s.events.length))

/-- `resolve(i)` (R115): `REG[i]`. -/
def resolve (reg : Table Handler) (i : Byte) : Option Handler := tableGet reg i.toNat

/-- `REG[i] <- some h` (R113). -/
def bindHandler (reg : Table Handler) (i : Byte) (h : Handler) : Table Handler := tableSet reg i.toNat h

/-- The two-bit code of `rx_state` (R12). -/
def rxStateCode : RxState → BitVec 2
  | .awaitSync => 0
  | .awaitLength => 1
  | .awaitIdentifier => 2
  | .accumulatePayload => 3

/-- The code of an outcome label (R128). -/
def outcomeCode : RxOutcome → BitVec 3
  | .consumed => 0
  | .syncError _ => 1
  | .lengthError _ => 2
  | .unknownIdentifier _ => 3
  | .checksumMismatch _ _ => 4
  | .dispatched _ _ _ => 5
  | .bufferOverrun => 6

end Sys2Proof.Machine
end

