-- ==== Sys2Proof/Machine/Ops.lean ====
section
/-! DEFINITION. Machine/Ops.lean: the shared operations of the block: the transport primitives (R39 to R43), the
checksum accumulator (R81), the actions of the framer (R92, R93, R97, R132), the serializer (R106, R110), the return of
a handler (R97), and reset (R141).

What the checklist calls taking an exception is here `rxError`: an error of a byte step performs `rx_reset()` and
nothing else (R132). There is no return from it (R133). -/

namespace Sys2Proof.Machine

/-- Append an event to the history (R45). -/
def logEvent (e : Event) (s : State) : State := { s with events := s.events ++ [e] }

/-- Append the outcome label of a byte step to the history (R45, R128). -/
def logOutcome (o : RxOutcome) (s : State) : State := logEvent (.outcome o) s

/-! ## The transport -/

/-- `TransportAvailable()` (R39). -/
def transportAvailable (s : State) : Nat := s.tp.rxq.length

/-- `TransportRead()` (R40): remove the oldest byte and return it; a fault on an empty queue. -/
def transportRead (s : State) : Ans (Byte × State) :=
  match s.tp.rxq with
  | [] => .fault .readEmptyRxq
  | b :: q => .next (b, logEvent (.read b) { s with tp := { s.tp with rxq := q } })

/-- `TransportWrite(f)` (R41): append the bytes to `TXQ`; one event with the whole frame (R45, R109). -/
def transportWrite (f : List Byte) (s : State) : State :=
  logEvent (.write f) { s with tp := { s.tp with txq := s.tp.txq ++ f } }

/-! ## The checksum accumulator -/

/-- `CHK.CLR` (R81). -/
def chkClr : Byte := 0x00

/-- `CHK.ACC b` (R81). -/
def chkAcc (acc b : Byte) : Byte := acc ^^^ b

/-! ## The framer -/

/-- `rx_reset()` (R93) on the RX registers: the entries of `rx_buf` are left as they are and become invalid
(log 22). -/
def rxResetRegs (r : RxRegs) : RxRegs :=
  { r with state := .awaitSync, cnt := 0, len := none, handler := none, chk := chkClr }

/-- `rx_reset()` (R93): it touches nothing outside the RX registers. -/
def rxReset (s : State) : State := { s with rx := rxResetRegs s.rx }

/-- An error of a byte step (R132): `rx_reset()`, and the step is labelled. -/
def rxError (o : RxOutcome) (s : State) : State := logOutcome o (rxReset s)

/-- `rx_buf[i] <- b` with the other RX registers given by `k` (R88 to R91). -/
def rxStore (i : Nat) (b : Byte) (s : State) : Ans State :=
  andThen (bufStore s.rx.buf i b) fun m => .next { s with rx := { s.rx with buf := m } }

/-- A byte step is taken when `rx_state` selects it (R87); with `rx_cnt >= 64`, which nothing reachable has, it resets
with the outcome `BufferOverrun` (R96; log 21). -/
def byteStep (st : RxState) (s : State) (k : Ans State) : Ans State :=
  if s.rx.state = st then
    if overrunTest s.rx.cnt then .next (rxError .bufferOverrun s) else k
  else .fault .byteStepNotSelected

/-- `dispatch(id, h, P)` (R97), its first line: the decoded frame is copied into `disp`. Its event follows the outcome
label of the byte step (log 13). -/
def dispatch (id : Byte) (h : Handler) (payload : List Byte) (s : State) : State :=
  logEvent (.dispatch id h payload) { s with disp := some { id := id, handler := h, payload := payload } }

/-- `complete(b)` (R92): the last byte of a frame is compared with `rx_chk`. -/
def complete (b : Byte) (s : State) : Ans State :=
  if checksumMatch s.rx.chk b then
    andThen (bufLoad s.rx.cnt s.rx.buf 2) fun id =>
    andThen (bufSlice s.rx.cnt s.rx.buf 3 (readLen s - 4)) fun payload =>
      .next (dispatch id (readHandler s) payload
        (logOutcome (.dispatched id (readHandler s) payload) (rxReset s)))
  else .next (rxError (.checksumMismatch s.rx.chk b) s)

/-! ## The serializer -/

/-- `append(b)` of R106: `tx_buf[tx_cnt] <- b ; tx_chk <- tx_chk ^ b ; tx_cnt <- tx_cnt + 1`. -/
def txAppend (b : Byte) (t : TxRegs) : Ans TxRegs :=
  andThen (bufStore t.buf t.cnt b) fun m => .next { t with buf := m, chk := chkAcc t.chk b, cnt := t.cnt + 1 }

/-- Append a sequence of bytes in order (R106 line 5). -/
def txAppendAll : List Byte → TxRegs → Ans TxRegs
  | [], t => .next t
  | b :: bs, t => andThen (txAppend b t) (txAppendAll bs)

/-- The checksum byte, appended without being folded in (R106 line 6, R20). -/
def txAppendChecksum (t : TxRegs) : Ans TxRegs :=
  andThen (bufStore t.buf t.cnt t.chk) fun m => .next { t with buf := m, cnt := t.cnt + 1 }

/-- R106 lines 1 to 6: the frame is built in `tx_buf`. -/
def txBuild (id : Byte) (payload : List Byte) (t : TxRegs) : Ans TxRegs :=
  andThen (txAppendAll ([Config.sync, BitVec.ofNat 8 (payload.length + Config.overhead), id] ++ payload)
    { t with cnt := 0, chk := chkClr }) txAppendChecksum

/-- R106 lines 1 to 7, "one atomic step of the serializer", and the beginning of the wait of line 8. -/
def serialise (id : Byte) (payload : List Byte) (s : State) : Ans State :=
  andThen (txBuild id payload s.tx) fun t =>
  andThen (bufSlice t.cnt t.buf 0 t.cnt) fun f =>
    .next (transportWrite f { s with tx := { t with phase := .flushing } })

/-- `send(id, P)` (R106): held while a flush is in progress (R110), refused when the payload is too long, with nothing
else changed (R107; log 9), and otherwise built and written. R110 speaks of the phase alone, and so does this; that no send
begins while an older operation is held is seen to where operations begin, in `handlerInvokes` and `turn` (log 17). -/
def sendOp (id : Byte) (payload : List Byte) (s : State) : Ans State :=
  if s.tx.phase = .flushing then .next { s with held := s.held ++ [.send id payload] }
  else if payloadTooLong payload then .next (logEvent (.sendRefused .payloadTooLong) s)
  else serialise id payload s

/-- R106 lines 8 and 9: the flush completes when `TXQ` is empty (R42) and `send` returns; until then it waits (R150). -/
def flushStep (s : State) : State :=
  match s.tp.txq with
  | [] => logEvent .flushDone { s with tx := { s.tx with phase := .idle } }
  | _ :: _ => s

/-! ## Handlers and the poll -/

/-- The handler has returned (R97): `disp <- none`, and the poll goes to line 4 (R98 line 3). -/
def handlerReturned (s : State) : State :=
  logEvent .handlerReturn { s with disp := none, active := none, handlerReturning := false, pollEnding := true }

/-- R98 line 4. -/
def pollEnd (s : State) : State := logEvent .pollEnd { s with pollActive := false, pollEnding := false }

/-- R98 line 1 with no byte available: go to line 4. -/
def scanEnd (s : State) : State := { s with pollEnding := true }

/-! ## Reset -/

/-- Reset (R141, R142): every register of the block; the transport is not cleared (R143). A pending dispatch
and a send in progress are abandoned (R141). DESIGN CHOICE (log 10): a user handler that runs when reset is applied is
abandoned with its dispatch, so `active` is none and whatever it would still do is the fault `noHandlerRunning`. -/
def applyReset (nodeIdIn : Byte) (s : State) : State :=
  { s with
    rx := RxRegs.reset
    pollActive := false
    pollEnding := false
    disp := none
    active := none
    tx := TxRegs.reset
    held := []
    handlerReturning := false
    reg := registryReset
    nodeId := nodeIdIn }

end Sys2Proof.Machine
end

