-- ==== Sys2Proof/Machine/Framer.lean ====
section
/-! DEFINITION. Machine/Framer.lean: the four byte steps of the RX framer (R87 to R91). The byte `b` has already been
read from the transport (R98 line 2). -/

namespace Sys2Proof.Machine

/-- `RX.SYNC` (R88). -/
def execRxSync (b : Byte) (s : State) : Ans State :=
  byteStep .awaitSync s <|
    if syncTest b then
      andThen (rxStore 0 b s) fun t =>
        .next (logOutcome .consumed
          { t with rx := { t.rx with chk := chkAcc t.rx.chk b, cnt := 1, state := .awaitLength } })
    else .next (logOutcome (.syncError b) s)

/-- `RX.LEN` (R89). -/
def execRxLen (b : Byte) (s : State) : Ans State :=
  byteStep .awaitLength s <|
    if lengthTest b then
      andThen (rxStore 1 b s) fun t =>
        .next (logOutcome .consumed
          { t with rx := { t.rx with
              chk := chkAcc t.rx.chk b, len := some b.toNat, cnt := 2, state := .awaitIdentifier } })
    else .next (rxError (.lengthError b) s)

/-- `RX.ID` (R90). -/
def execRxId (b : Byte) (s : State) : Ans State :=
  byteStep .awaitIdentifier s <|
    match resolve s.reg b with
    | some h =>
      andThen (rxStore 2 b s) fun t =>
        .next (logOutcome .consumed
          { t with rx := { t.rx with
              chk := chkAcc t.rx.chk b, handler := some h, cnt := 3, state := .accumulatePayload } })
    | none => .next (rxError (.unknownIdentifier b) s)

/-- `RX.ACC` (R91). -/
def execRxAcc (b : Byte) (s : State) : Ans State :=
  byteStep .accumulatePayload s <|
    andThen (rxStore s.rx.cnt b s) fun t =>
      if payloadByteTest t.rx.cnt (readLen t) then
        .next (logOutcome .consumed { t with rx := { t.rx with chk := chkAcc t.rx.chk b, cnt := t.rx.cnt + 1 } })
      else complete b t

end Sys2Proof.Machine
end

