-- ==== Sys2Proof/Machine/Replies.lean ====
section
/-! DEFINITION. Machine/Replies.lean: the three frames the handshake responder transmits (R69, R78, R119), each one
`send` under the reserved identifier. -/

namespace Sys2Proof.Machine

/-- `send(0xFF, [r])` (R119). -/
def sendReply (r : Byte) (s : State) : Ans State := sendOp Config.hsId [r] s

/-- `HS.ID node`: `FRAME 0xFF, [node]` (R78). -/
def execHsId (node : Byte) (s : State) : Ans State := sendReply node s

/-- `HS.OK`: `FRAME 0xFF, [0xAA]` (R78). -/
def execHsOk (s : State) : Ans State := sendReply Config.hsOk s

/-- `HS.ERR`: `FRAME 0xFF, [0xFF]` (R78). -/
def execHsErr (s : State) : Ans State := sendReply Config.hsError s

end Sys2Proof.Machine
end

