-- ==== Sys2Proof/Machine/Frames.lean ====
section
/-! DEFINITION. Machine/Frames.lean: the received frames (R67, R97) and the handshake responder (R119 to R122).

A received frame is an instruction once the framer has accepted it: the framer has put it in `disp` with the handler
it latched at the identifier byte, and the meaning invokes that handler with the payload. -/

namespace Sys2Proof.Machine

/-- The byte `r` of R119: the request test comes first (R68, R121). -/
def replyByte (nodeId p : Byte) : Byte :=
  if p = Config.hsRequest then nodeId else if p = nodeId then Config.hsOk else Config.hsError

/-- The handshake responder (R119) on a payload: it transmits `HS.ID`, `HS.OK` or `HS.ERR`, and `P[1..]` is ignored
(R121 item 4). An empty payload gets no reply and changes no state (R122; log 11). -/
def respond (payload : List Byte) (s : State) : Ans State :=
  match payload with
  | [] => .next s
  | p :: _ => sendReply (replyByte s.nodeId p) s

/-- Invoke the handler of the dispatched frame `(id, payload)`, exactly once (R97): the handshake responder if the
latched handler is `HS`, else the external handler agent, which runs from now on. -/
def invokeHandler (id : Byte) (payload : List Byte) (s : State) : Ans State :=
  match s.disp, s.active with
  | some d, none =>
    if d.id = id ∧ d.payload = payload then
      match d.handler with
      | .hs => respond payload { s with active := some d }
      | .user _ => .next { s with active := some d }
    else .fault .frameNotDispatched
  | _, _ => .fault .frameNotDispatched

/-- `CMD id, payload` (R97): deliver the identifier and the payload to the handler. -/
def execCmd (id : Byte) (payload : List Byte) (s : State) : Ans State := invokeHandler id payload s

/-- `HS.REQ` (R119): the reply is `FRAME 0xFF, [NODE_ID]`. -/
def execHsReq (rest : List Byte) (s : State) : Ans State :=
  invokeHandler Config.hsId (Config.hsRequest :: rest) s

/-- `HS.CONFIRM candidate` (R119): the reply is `FRAME 0xFF, [0xAA]` if the candidate is `NODE_ID`, else
`FRAME 0xFF, [0xFF]`. -/
def execHsConfirm (candidate : Byte) (rest : List Byte) (s : State) : Ans State :=
  invokeHandler Config.hsId (candidate :: rest) s

/-- `HS.EMPTY` (R122; log 11). -/
def execHsEmpty (s : State) : Ans State := invokeHandler Config.hsId [] s

end Sys2Proof.Machine
end

