-- ==== Sys2Proof/Machine/HostOps.lean ====
section
/-! DEFINITION. Machine/HostOps.lean: the four host operations (R98, R106, R113, R117). A user handler may invoke all
of them but `poll` (R97). -/

namespace Sys2Proof.Machine

/-- `POLL` (R98 line 0): the poll begins; the block's further steps are lines 1 to 4 (Machine/Agents.lean). With
`RX_PARTIAL_POLICY = drop_at_poll_start` line 0 also performs `rx_reset()` (R101). A poll inside a poll is refused
(R102, spec U3; log 20). -/
def execPoll (s : State) : Ans State :=
  if s.pollActive then .refused .pollReentered
  else
    match s.params.rxPartialPolicy with
    | .persist => .next (logEvent .pollStart { s with pollActive := true, pollEnding := false })
    | .dropAtPollStart =>
      .next (logEvent .pollStart (rxReset { s with pollActive := true, pollEnding := false }))

/-- `SEND id, payload` (R106). The registry is not consulted (R108). -/
def execSend (id : Byte) (payload : List Byte) (s : State) : Ans State := sendOp id payload s

/-- `REGISTER id, h` (R113): bind or rebind; the reserved entry is locked when `HS_LOCKED` (R114). -/
def execRegister (id : Byte) (h : Handler) (s : State) : Ans State :=
  if id = Config.hsId ∧ s.params.hsLocked = true then .next (logEvent (.register id h false) s)
  else .next (logEvent (.register id h true) { s with reg := bindHandler s.reg id h })

/-- `GETNODEID` (R117): the caller gets `NODE_ID`; nothing else changes (log 8). -/
def execGetNodeId (s : State) : Ans State := .next { s with result := some s.nodeId }

end Sys2Proof.Machine
end

