-- ==== Sys2Proof/Machine/Dispatch.lean ====
section
/-! DEFINITION. Machine/Dispatch.lean: one arm for each instruction. -/

namespace Sys2Proof.Machine

def exec (i : Instr) (s : State) : Host.Outcome State Fault Refusal :=
  match i with
  -- received frames
  | .cmd id payload => Sys2Proof.Machine.execCmd id payload s
  | .hsReq rest => Sys2Proof.Machine.execHsReq rest s
  | .hsConfirm candidate rest => Sys2Proof.Machine.execHsConfirm candidate rest s
  | .hsEmpty => Sys2Proof.Machine.execHsEmpty s
  -- transmitted frames
  | .hsId node => Sys2Proof.Machine.execHsId node s
  | .hsOk => Sys2Proof.Machine.execHsOk s
  | .hsErr => Sys2Proof.Machine.execHsErr s
  -- byte steps
  | .rxSync b => Sys2Proof.Machine.execRxSync b s
  | .rxLen b => Sys2Proof.Machine.execRxLen b s
  | .rxId b => Sys2Proof.Machine.execRxId b s
  | .rxAcc b => Sys2Proof.Machine.execRxAcc b s
  -- host operations
  | .poll => Sys2Proof.Machine.execPoll s
  | .send id payload => Sys2Proof.Machine.execSend id payload s
  | .register id h => Sys2Proof.Machine.execRegister id h s
  | .getNodeId => Sys2Proof.Machine.execGetNodeId s

end Sys2Proof.Machine
end

