-- ==== Sys2Proof/Machine/Agents.lean ====
section
/-! DEFINITION. Machine/Agents.lean: whose step is next, what the block's own step is, and what the agents around the
block do (R10, R44, R97, R98, R106). -/

namespace Sys2Proof.Machine

/-- What the block's next own step is. -/
inductive Turn where
  /-- R106 lines 8 and 9: the flush in progress. -/
  | flush
  /-- R110, R55: the oldest held operation runs; `rest` stays held. -/
  | heldOp (op : HostOp) (rest : List HostOp)
  /-- R97: the dispatched frame goes to its handler. -/
  | frame (i : Instr)
  /-- R119: the handshake responder returns. -/
  | responderReturn
  /-- R98 line 3: an external handler runs and the block waits for it. -/
  | handlerRuns
  /-- R97: an external handler whose last `send` has returned returns. -/
  | handlerReturns
  /-- R98 line 4. -/
  | pollEnd
  /-- R98 line 1, no byte available. -/
  | scanEnd
  /-- R98 lines 1 and 2: a byte is read and the byte step of `rx_state` is taken. -/
  | byteStep (i : Instr)
  /-- A host operation begins; `rest` stays invoked. -/
  | request (op : HostOp) (rest : List HostOp)
  /-- R140, R142: nothing to do until a host operation is invoked. -/
  | idle
  deriving DecidableEq, Repr

/-- The block's next own step. A flush comes before everything, since the block waits for it (R42); then the handler of
a dispatched frame, since the framer is held meanwhile (R18); then the poll; then the host (spec D7). Log 18. -/
def turn (s : State) : Turn :=
  match s.tx.phase with
  | .flushing => .flush
  | .idle =>
    match s.held with
    | op :: rest => .heldOp op rest
    | [] =>
      match s.disp with
      | some d =>
        match s.active with
        | none => .frame (frameInstr d.id d.payload)
        | some a =>
          match a.handler with
          | .hs => .responderReturn
          | .user _ => if s.handlerReturning then .handlerReturns else .handlerRuns
      | none =>
        if s.pollActive then
          if s.pollEnding then .pollEnd
          else
            match s.tp.rxq with
            | [] => .scanEnd
            | b :: _ => .byteStep (decodeByteStep (rxStateCode s.rx.state) b)
        else
          match s.hostReq with
          | op :: rest => .request op rest
          | [] => .idle

/-- The block takes its next own step. Waiting for the transport (R150) or for a handler (R151), and being idle, change
nothing. -/
def blockStep (s : State) : Ans State :=
  match turn s with
  | .flush => .next (flushStep s)
  | .heldOp op rest => exec op.instr { s with held := rest }
  | .frame i => exec i s
  | .responderReturn => .next (handlerReturned s)
  | .handlerRuns => .next s
  | .handlerReturns => .next (handlerReturned s)
  | .pollEnd => .next (pollEnd s)
  | .scanEnd => .next (scanEnd s)
  | .byteStep i => andThen (transportRead s) fun r => exec i r.2
  | .request op rest => exec op.instr { s with hostReq := rest }
  | .idle => .next s

/-- The running external handler, if one runs and has not returned (R97). -/
def runningHandler (s : State) : Option Nat :=
  match s.active with
  | some a =>
    match a.handler with
    | .user n => if s.handlerReturning then none else some n
    | .hs => none
  | none => none

/-- A `send`, or an operation after it, is still in progress: a caller waits for it (R55, R106). -/
abbrev sendInProgress (s : State) : Prop := s.tx.phase = .flushing ∨ s.held ≠ []

/-- The host invokes an operation: it waits its turn (spec D7, U13), but a `poll` while a poll is in progress is refused
(R102, spec U3). -/
def hostInvokes (op : HostOp) (s : State) : Ans State :=
  if op = .poll ∧ s.pollActive = true then exec op.instr s
  else .next { s with hostReq := s.hostReq ++ [op] }

/-- The running external handler invokes an operation (R97). It is one thread: during a `send` of its own the operation
is held, and what is held runs in program order (R53, R55; log 17). -/
def handlerInvokes (op : HostOp) (s : State) : Ans State :=
  match runningHandler s with
  | some _ => if sendInProgress s then .next { s with held := s.held ++ [op] } else exec op.instr s
  | none => .fault .noHandlerRunning

/-- The running external handler returns (R97), during a `send` of its own when that has returned (R106; log 17). -/
def handlerReturns (s : State) : Ans State :=
  match runningHandler s with
  | some _ => .next (if sendInProgress s then { s with handlerReturning := true } else handlerReturned s)
  | none => .fault .noHandlerRunning

/-- A byte arrives (R44). -/
def byteArrives (b : Byte) (s : State) : State := { s with tp := { s.tp with rxq := s.tp.rxq ++ [b] } }

/-- The transport sends the head of `TXQ`, if there is one (R44). -/
def byteSent (s : State) : State := { s with tp := { s.tp with txq := s.tp.txq.tail } }

/-- The transport loses the last `n` bytes of `TXQ` (R41, spec U6). -/
def bytesLost (n : Nat) (s : State) : State :=
  { s with tp := { s.tp with txq := s.tp.txq.take (s.tp.txq.length - n) } }

/-- The transport drives its write-error flag (R24, spec U6). -/
def writeErrorFlag (v : Bool) (s : State) : State := { s with tp := { s.tp with werr := v } }

/-- One move of the schedule. -/
def runMove (m : Move) (s : State) : Ans State :=
  match m with
  | .block => blockStep s
  | .arrive b => .next (byteArrives b s)
  | .sent => .next (byteSent s)
  | .lost n => .next (bytesLost n s)
  | .writeError v => .next (writeErrorFlag v s)
  | .rst n => .next (applyReset n s)
  | .request op => hostInvokes op s
  | .handlerCall op => handlerInvokes op s
  | .handlerReturn => handlerReturns s

/-- The next move of the schedule; when the schedule has nothing more, the block takes its own steps. -/
def nextMove (s : State) : Ans State :=
  match s.sched with
  | m :: ms => runMove m { s with sched := ms }
  | [] => blockStep s

/-! ## Placing one instruction where the next step runs it (log 19) -/

/-- RX registers in which the byte step with this code is the one selected, in the middle of the frame `AA 05 FF ..`. -/
def rxAt (code : BitVec 2) (r : RxRegs) : RxRegs :=
  match code.toNat with
  | 0 => rxResetRegs r
  | 1 => { r with state := .awaitLength, cnt := 1, len := none, handler := none, chk := 0xAA,
                  buf := tableSet r.buf 0 0xAA }
  | 2 => { r with state := .awaitIdentifier, cnt := 2, len := some 5, handler := none, chk := 0xAF,
                  buf := tableSet (tableSet r.buf 0 0xAA) 1 0x05 }
  | _ => { r with state := .accumulatePayload, cnt := 3, len := some 5, handler := some .hs, chk := 0x50,
                  buf := tableSet (tableSet (tableSet r.buf 0 0xAA) 1 0x05) 2 0xFF }

/-- The block scanning in a poll, with these bytes next to be read and its own step the next move. -/
def placeBytes (bs : List Byte) (s : State) : State :=
  { s with
    pollActive := true
    pollEnding := false
    disp := none
    active := none
    tx := { s.tx with phase := .idle }
    held := []
    handlerReturning := false
    tp := { s.tp with rxq := bs ++ s.tp.rxq }
    sched := .block :: s.sched }

/-- An accepted frame in `disp` with its handler not yet invoked; an identifier without a handler gets the tag 0. -/
def placeFrame (id : Byte) (payload : List Byte) (s : State) : State :=
  { placeBytes [] s with
    disp := some { id := id, handler := (resolve s.reg id).getD (.user 0), payload := payload } }

/-- The word of an opcode-table row placed where the next step runs it: an accepted frame in `disp`; the bytes of a
rejected one in `RXQ`; a state code in the RX registers with the byte 0 in `RXQ`. -/
def placeWord (s : State) (nbits w : Nat) : State :=
  if nbits = 32 then
    match decodeTableWord nbits w with
    | some i =>
      match i.frame? with
      | some (id, payload) => placeFrame id payload s
      | none => placeBytes (tableFrame w) s
    | none => placeBytes (tableFrame w) s
  else placeBytes [0] { s with rx := rxAt (BitVec.ofNat 2 w) s.rx }

end Sys2Proof.Machine
end

