-- ==== Sys2Proof/Machine/Step.lean ====
section
/-! DEFINITION. Machine/Step.lean: the one step of the machine, and the placing of one word of the opcode table where
the step runs it. Both only call Machine/Agents.lean. -/

namespace Sys2Proof.Machine

/-- One step: the next move of the schedule, or the block's own next step when the schedule is empty (log 1). -/
def step (s : State) : Host.Outcome State Fault Refusal := nextMove s

/-- `s` with the word of an opcode-table row placed where the very next step runs it (log 19). -/
def State.withFetchWord (s : State) (nbits w : Nat) : State := placeWord s nbits w

end Sys2Proof.Machine
end

