-- ==== Sys2Proof/Safety.lean ====
section
/-! DEFINITION. Safety.lean: what a good state of the block is (R34, R35, R114, R18), what an instruction leaves alone,
and runs of byte steps: the terms the statements are written in. -/

namespace Sys2Proof.Machine

/-! ## Invariants -/

/-- The bytes of the in-flight frame: `rx_buf[0..rx_cnt-1]` (R33). -/
def inFlight (r : RxRegs) : Ans (List Byte) := bufSlice r.cnt r.buf 0 r.cnt

/-- The invariants of the RX registers (R34 items 1 to 6; R14, R15 for what is invalid). -/
structure RxInv (r : RxRegs) : Prop where
  /-- R34 item 1. -/
  sync : r.state = .awaitSync ↔ r.cnt = 0
  /-- R34 item 2. -/
  length : r.state = .awaitLength ↔ r.cnt = 1
  /-- R34 item 3. -/
  ident : r.state = .awaitIdentifier ↔ r.cnt = 2
  /-- R34 item 4. -/
  acc : r.state = .accumulatePayload ↔ 3 ≤ r.cnt
  /-- R34 item 2: the first byte of the in-flight frame is the sync byte. -/
  first : 1 ≤ r.cnt → tableGet r.buf 0 = some Config.sync
  /-- R34 items 3 and 4: `rx_len` is valid, in range, and is the second byte; the frame is not complete. -/
  len : 2 ≤ r.cnt → ∃ l, r.len = some l ∧ 4 ≤ l ∧ l ≤ 64 ∧ tableGet r.buf 1 = some (BitVec.ofNat 8 l) ∧ r.cnt + 1 ≤ l
  /-- R14: otherwise `rx_len` is invalid. -/
  lenInvalid : r.cnt < 2 → r.len = none
  /-- R15: `rx_handler` is valid only in `AccumulatePayload`. -/
  handler : r.handler.isSome = true ↔ 3 ≤ r.cnt
  /-- R34 item 5: all bytes of the in-flight frame are there, and `rx_chk` is their XOR. -/
  chk : ∃ bs, inFlight r = .next bs ∧ r.chk = xorSum bs
  /-- R34 item 6. -/
  bound : r.cnt ≤ 63
  /-- The buffer is in canonical form. -/
  buf : Memory.wf r.buf = true

/-- The invariants of the TX registers (R35, R112): while a flush is in progress, `tx_buf[0..tx_cnt-1]` is a
well-formed frame. -/
structure TxInv (t : TxRegs) : Prop where
  cnt : t.cnt ≤ 64
  buf : Memory.wf t.buf = true
  frame : t.phase = .flushing → ∃ f, bufSlice t.cnt t.buf 0 t.cnt = .next f ∧ wellFormedFrame f = true

/-- The registry is in canonical form over the 256 identifiers (R27), and the reserved entry is the handshake responder
for as long as it is locked (R114). -/
structure RegInv (s : State) : Prop where
  wf : tableWf s.reg 0 256 = true
  locked : s.params.hsLocked = true → resolve s.reg Config.hsId = some .hs

/-- The invariants of the poll and of the hand-off (R34 item 7, R17, R18, R97). -/
structure PollInv (s : State) : Prop where
  /-- R34 item 7. -/
  disp : s.pollActive = false → s.disp = none
  /-- A poll that is over is not ending. -/
  ending : s.pollActive = false → s.pollEnding = false
  /-- A handler runs only on the frame in `disp`. -/
  active : s.active = none ∨ s.active = s.disp
  /-- Only a handler that runs is about to return. -/
  returning : s.handlerReturning = true → s.active ≠ none
  /-- R98: line 4 comes after the handler has returned. -/
  returned : s.pollEnding = true → s.disp = none
  /-- R92, R93: the Parser State is empty while a handler runs. -/
  parser : s.disp ≠ none → s.rx.cnt = 0
  /-- R18: 0 to 60 payload bytes. -/
  payload : ∀ d, s.disp = some d → d.payload.length ≤ 60

/-- A good state of the block. -/
structure Inv (s : State) : Prop where
  rx : RxInv s.rx
  tx : TxInv s.tx
  reg : RegInv s
  poll : PollInv s

/-! ## Frames: what stays as it was -/

/-- Nothing but the RX registers, `disp` and the event history differs. -/
structure OnlyRx (s t : State) : Prop where
  pollActive : t.pollActive = s.pollActive
  pollEnding : t.pollEnding = s.pollEnding
  active : t.active = s.active
  tx : t.tx = s.tx
  held : t.held = s.held
  handlerReturning : t.handlerReturning = s.handlerReturning
  reg : t.reg = s.reg
  nodeId : t.nodeId = s.nodeId
  tp : t.tp = s.tp
  params : t.params = s.params
  hostReq : t.hostReq = s.hostReq
  sched : t.sched = s.sched
  result : t.result = s.result

/-- Nothing but the TX registers, `TXQ` and the event history differs (and `active`, for a frame that is answered). -/
structure OnlyTx (s t : State) : Prop where
  rx : t.rx = s.rx
  pollActive : t.pollActive = s.pollActive
  pollEnding : t.pollEnding = s.pollEnding
  disp : t.disp = s.disp
  held : t.held = s.held
  handlerReturning : t.handlerReturning = s.handlerReturning
  reg : t.reg = s.reg
  nodeId : t.nodeId = s.nodeId
  rxq : t.tp.rxq = s.tp.rxq
  werr : t.tp.werr = s.tp.werr
  params : t.params = s.params
  hostReq : t.hostReq = s.hostReq
  sched : t.sched = s.sched
  result : t.result = s.result

/-- Every entry of a buffer holds what it held, but for the entries with an index in `[lo, hi)`. -/
def SameOutside (lo hi : Nat) (m m' : Memory) : Prop :=
  ∀ i, (i < lo ∨ hi ≤ i) → tableGet m' i = tableGet m i

/-- The frame `f` has been built, handed to the transport and its flush begun (R106 lines 1 to 8): the TX registers,
`TXQ` and the event history say so, and the rest of `tx_buf` is as it was. -/
structure FrameSent (f : List Byte) (s t : State) : Prop where
  txq : t.tp.txq = s.tp.txq ++ f
  events : t.events = s.events ++ [.write f]
  phase : t.tx.phase = .flushing
  cnt : t.tx.cnt = f.length
  chk : t.tx.chk = xorSum f.dropLast
  buf : bufSlice t.tx.cnt t.tx.buf 0 t.tx.cnt = .next f
  rest : SameOutside 0 f.length s.tx.buf t.tx.buf

/-- The Parser State is destroyed (R93, R132): nothing of a frame is in flight. -/
structure ParserEmpty (r : RxRegs) : Prop where
  state : r.state = .awaitSync
  cnt : r.cnt = 0
  chk : r.chk = 0x00
  len : r.len = none
  handler : r.handler = none

/-- No cell of `rx_buf` differs (R93: "the entries of `rx_buf` are left as they are"). -/
abbrev SameRxBuf (s t : State) : Prop := SameOutside 0 0 s.rx.buf t.rx.buf

/-! ## Runs -/

/-- Take one byte step for each byte, in order (R52, R87). -/
def feedBytes : List Byte → State → Ans State
  | [], s => .next s
  | b :: bs, s => andThen (exec (decodeByteStep (rxStateCode s.rx.state) b) s) (feedBytes bs)

/-- `k` steps of the machine, stopping where a step stops. -/
def steps : Nat → State → Ans State
  | 0, s => .next s
  | k + 1, s => andThen (step s) (steps k)

/-- The block is scanning: a poll is in progress, no frame is handed off, no flush is in progress, and the schedule leaves
the next steps to the block. -/
structure Scanning (s : State) : Prop where
  pollActive : s.pollActive = true
  pollEnding : s.pollEnding = false
  disp : s.disp = none
  phase : s.tx.phase = .idle
  held : s.held = []
  sched : s.sched = []

end Sys2Proof.Machine
end

