-- ==== Sys2Proof/Certificates/Slice0/Obligations.lean ====
section
/-! DEFINITION. Certificates/Slice0/Obligations.lean: the statements about the model, for the provers.

A docstring cites the rule of spec/ a statement formalises. Many rules of this spec carry its own mark "[derived ..]" or
"[decision ..]": a statement that rests on one says so. "Log n" is notes/assumptions/n.md. -/

open Sys2Proof Sys2Proof.Machine

/-! ## The checksum and the frame format -/

/-- R80: bit `k` of `XOR(s)` is 1 exactly when an odd number of elements of `s` have bit `k` set, and appending a
sequence combines the two sums (R84 item 4). The empty sum 0x00 is the spec's own inference. -/
def Obligations.ChecksumBitsAreParities : Prop :=
  xorSum [] = 0x00 ∧
    (∀ s t : List Byte, xorSum (s ++ t) = xorSum s ^^^ xorSum t) ∧
    ∀ (s : List Byte) (k : Nat), (xorSum s).getLsbD k = true ↔ (s.countP fun b => b.getLsbD k) % 2 = 1

/-- R84 item 2 (derived by the spec): changing one byte changes the checksum by exactly that change. -/
def Obligations.OneChangedByteChangesTheChecksum : Prop :=
  ∀ (s : List Byte) (i : Nat) (hi : i < s.length) (v : Byte),
    xorSum (s.set i v) = xorSum s ^^^ s[i] ^^^ v ∧ (v ≠ s[i] → xorSum (s.set i v) ≠ xorSum s)

/-- R60, R61, R63: the frame of an identifier and a payload of at most 60 bytes, field by field: offset 0 is 0xAA,
offset 1 is the length of the whole frame, offset 2 the identifier, then the payload, and last the XOR of all bytes
before it. -/
def Obligations.FrameFieldsStandWhereTheFormatPutsThem : Prop :=
  ∀ (id : Byte) (payload : List Byte), payload.length ≤ 60 →
    (encodeFrame id payload).length = payload.length + 4 ∧
    (encodeFrame id payload)[0]? = some 0xAA ∧
    ((encodeFrame id payload)[1]?.map BitVec.toNat) = some (payload.length + 4) ∧
    (encodeFrame id payload)[2]? = some id ∧
    (∀ k, k < payload.length → (encodeFrame id payload)[3 + k]? = payload[k]?) ∧
    (encodeFrame id payload)[payload.length + 3]? = some (xorSum ((encodeFrame id payload).take (payload.length + 3)))

/-- R65 (derived by the spec): every frame the encoder makes is well-formed, and every well-formed frame is made by the
encoder from its own identifier and payload. -/
def Obligations.WellFormedFramesAreTheEncodedFrames : Prop :=
  (∀ (id : Byte) (payload : List Byte), payload.length ≤ 60 → wellFormedFrame (encodeFrame id payload) = true) ∧
    ∀ s : List Byte, wellFormedFrame s = true →
      ∃ id payload, payload.length ≤ 60 ∧ s[2]? = some id ∧ payload = (s.drop 3).dropLast ∧ s = encodeFrame id payload

/-- R84 item 1 (derived by the spec): a sequence with a sync byte and a length byte that is its legal length is a
well-formed frame exactly when the XOR of all its bytes is 0x00. -/
def Obligations.WholeFrameSumsToZero : Prop :=
  ∀ s : List Byte, s[0]? = some 0xAA → (s[1]?.map BitVec.toNat) = some s.length → 4 ≤ s.length → s.length ≤ 64 →
    (wellFormedFrame s = true ↔ xorSum s = 0x00)

/-- Decode and encode agree: every well-formed instruction that the block can receive or be asked for decodes from its own
encoding; a frame does so with any bytes after it, which are left over. -/
def Obligations.DecodingAnEncodingGivesTheInstruction : Prop :=
  (∀ i : Instr, i.wf = true → i.transmittedOnly = false → decode (encode i) = .ok i []) ∧
    ∀ (id : Byte) (payload rest : List Byte), payload.length ≤ 60 →
      decodeFrame (encodeFrame id payload ++ rest) = .ok (frameInstr id payload) rest

/-- Each byte sequence the decoder accepts is the encoding of the one well-formed instruction it answers, followed by the
bytes it leaves over. -/
def Obligations.AcceptedBytesAreTheEncoding : Prop :=
  ∀ (bs rest : List Byte) (i : Instr), decodeFrame bs = .ok i rest →
    i.wf = true ∧ i.transmittedOnly = false ∧
      ∃ f, encode i = .frame f ∧ bs = f ++ rest

/-- R69, R79: nothing tells a reply from a query: the bytes of a transmitted reply, when received, are an `HS.REQ` or an
`HS.CONFIRM` frame. -/
def Obligations.RepliesReadAsQueries : Prop :=
  (∀ n : Byte, decode (encode (.hsId n)) = .ok (if n = 0x00 then .hsReq [] else .hsConfirm n []) []) ∧
    decode (encode .hsOk) = .ok (.hsConfirm 0xAA []) [] ∧ decode (encode .hsErr) = .ok (.hsConfirm 0xFF []) []

/-- Words written out from the spec's encodings (R69, R78, R79, vectors V17, V54, V61) decode to what they stand for. -/
def Obligations.SampleWordsDecode : Prop :=
  decode (.frame [0xAA, 0x07, 0x10, 0x01, 0x02, 0x03, 0xBD]) = .ok (.cmd 0x10 [0x01, 0x02, 0x03]) [] ∧
    decode (.frame [0xAA, 0x05, 0xFF, 0x00, 0x50]) = .ok (.hsReq []) [] ∧
    decode (.frame [0xAA, 0x07, 0xFF, 0x00, 0x09, 0x09, 0x52]) = .ok (.hsReq [0x09, 0x09]) [] ∧
    decode (.frame [0xAA, 0x05, 0xFF, 0x01, 0x51]) = .ok (.hsConfirm 0x01 []) [] ∧
    decode (.frame [0xAA, 0x04, 0xFF, 0x51]) = .ok .hsEmpty [] ∧
    decode (.byteStep 0 0x13) = .ok (.rxSync 0x13) [] ∧ decode (.byteStep 1 0x05) = .ok (.rxLen 0x05) [] ∧
    decode (.byteStep 2 0xFF) = .ok (.rxId 0xFF) [] ∧ decode (.byteStep 3 0x50) = .ok (.rxAcc 0x50) []

/-! ## Reset -/

/-- R142 for the values the spec gives, and the launch state of the transport (R31 for `RXQ`; that `TXQ` is empty is log
3). The content of the buffers is invalid, so reading an entry faults (log 5). `NODE_ID` is the model's argument (log
2). -/
def Obligations.ResetHoldsTheSpecsValues : Prop :=
  ParserEmpty State.reset.rx ∧ State.reset.pollActive = false ∧ State.reset.disp = none ∧
    State.reset.tx.cnt = 0 ∧ State.reset.tx.chk = 0x00 ∧ State.reset.tx.phase = .idle ∧
    resolve State.reset.reg 0xFF = some .hs ∧ (∀ i : Byte, i ≠ 0xFF → resolve State.reset.reg i = none) ∧
    State.reset.nodeId = Config.nodeIdIn ∧ State.reset.tp.rxq = [] ∧ State.reset.tp.txq = [] ∧
    (∀ i, i < 64 → bufLoad State.reset.rx.cnt State.reset.rx.buf i = .fault .invalidEntry ∧
      bufLoad State.reset.tx.cnt State.reset.tx.buf i = .fault .invalidEntry)

/-- R141, R142, R143: the reset input gives the block the reset values and the new `NODE_ID`, and does not touch the
transport. That it keeps the event history and the invoked host operations is the model's choice (log 10). -/
def Obligations.TheResetInputRestartsTheBlock : Prop :=
  ∀ (s : State) (n : Byte) (ms : List Move), s.sched = .rst n :: ms →
    ∃ t, step s = .next t ∧ ParserEmpty t.rx ∧ t.pollActive = false ∧ t.disp = none ∧ t.active = none ∧
      t.tx.cnt = 0 ∧ t.tx.chk = 0x00 ∧ t.tx.phase = .idle ∧ t.held = [] ∧ t.handlerReturning = false ∧
      resolve t.reg 0xFF = some .hs ∧ (∀ i : Byte, i ≠ 0xFF → resolve t.reg i = none) ∧ t.nodeId = n ∧
      t.tp = s.tp ∧ t.params = s.params ∧ t.events = s.events ∧ t.hostReq = s.hostReq ∧ t.sched = ms

/-! ## The byte steps -/

/-- R88: the byte step of `AwaitSync`, accepting and rejecting, with its frame. -/
def Obligations.SyncByteStep : Prop :=
  ∀ (b : Byte) (s : State), s.rx.state = .awaitSync → s.rx.cnt = 0 →
    ∃ t, exec (.rxSync b) s = .next t ∧ OnlyRx s t ∧ t.disp = s.disp ∧
      (b = 0xAA → t.rx.state = .awaitLength ∧ t.rx.cnt = 1 ∧ t.rx.chk = s.rx.chk ^^^ b ∧
        bufLoad t.rx.cnt t.rx.buf 0 = .next b ∧ SameOutside 0 1 s.rx.buf t.rx.buf ∧
        t.rx.len = s.rx.len ∧ t.rx.handler = s.rx.handler ∧ t.events = s.events ++ [.outcome .consumed]) ∧
      (b ≠ 0xAA → t.rx = s.rx ∧ t.events = s.events ++ [.outcome (.syncError b)])

/-- R89: the byte step of `AwaitLength`, accepting and rejecting, with its frame. -/
def Obligations.LengthByteStep : Prop :=
  ∀ (b : Byte) (s : State), s.rx.state = .awaitLength → s.rx.cnt = 1 →
    ∃ t, exec (.rxLen b) s = .next t ∧ OnlyRx s t ∧ t.disp = s.disp ∧
      (4 ≤ b.toNat ∧ b.toNat ≤ 64 → t.rx.state = .awaitIdentifier ∧ t.rx.cnt = 2 ∧ t.rx.chk = s.rx.chk ^^^ b ∧
        t.rx.len = some b.toNat ∧ tableGet t.rx.buf 1 = some b ∧ SameOutside 1 2 s.rx.buf t.rx.buf ∧
        t.rx.handler = s.rx.handler ∧ t.events = s.events ++ [.outcome .consumed]) ∧
      (¬ (4 ≤ b.toNat ∧ b.toNat ≤ 64) → ParserEmpty t.rx ∧ SameRxBuf s t ∧
        t.events = s.events ++ [.outcome (.lengthError b)])

/-- R90: the byte step of `AwaitIdentifier`, accepting and rejecting, with its frame. -/
def Obligations.IdentifierByteStep : Prop :=
  ∀ (b : Byte) (s : State), s.rx.state = .awaitIdentifier → s.rx.cnt = 2 →
    ∃ t, exec (.rxId b) s = .next t ∧ OnlyRx s t ∧ t.disp = s.disp ∧
      (∀ h, resolve s.reg b = some h → t.rx.state = .accumulatePayload ∧ t.rx.cnt = 3 ∧
        t.rx.chk = s.rx.chk ^^^ b ∧ t.rx.handler = some h ∧ tableGet t.rx.buf 2 = some b ∧
        SameOutside 2 3 s.rx.buf t.rx.buf ∧ t.rx.len = s.rx.len ∧ t.events = s.events ++ [.outcome .consumed]) ∧
      (resolve s.reg b = none → ParserEmpty t.rx ∧ SameRxBuf s t ∧
        t.events = s.events ++ [.outcome (.unknownIdentifier b)])

/-- R91: the byte step of `AccumulatePayload`, in every good state of the RX registers: a payload byte is collected; the
last byte completes the frame, which is dispatched to the latched handler if that byte is the XOR of the bytes before it
(R127 otherwise: the whole frame is discarded and no handler is invoked). With its frame. -/
def Obligations.AccumulateByteStep : Prop :=
  ∀ (b : Byte) (s : State) (l : Nat) (bs : List Byte), RxInv s.rx → s.rx.state = .accumulatePayload →
    s.rx.len = some l → inFlight s.rx = .next bs →
    ∃ t, exec (.rxAcc b) s = .next t ∧ OnlyRx s t ∧ SameOutside s.rx.cnt (s.rx.cnt + 1) s.rx.buf t.rx.buf ∧
      tableGet t.rx.buf s.rx.cnt = some b ∧
      (s.rx.cnt + 1 < l → t.disp = s.disp ∧ t.rx.state = .accumulatePayload ∧ t.rx.cnt = s.rx.cnt + 1 ∧
        t.rx.chk = s.rx.chk ^^^ b ∧ t.rx.len = s.rx.len ∧ t.rx.handler = s.rx.handler ∧
        t.events = s.events ++ [.outcome .consumed]) ∧
      (s.rx.cnt + 1 = l → ParserEmpty t.rx ∧
        (xorSum bs = b → ∃ id h, bs[2]? = some id ∧ s.rx.handler = some h ∧
          t.disp = some { id := id, handler := h, payload := bs.drop 3 } ∧
          ∃ es, t.events = s.events ++ es ∧
            es.Perm [.outcome (.dispatched id h (bs.drop 3)), .dispatch id h (bs.drop 3)]) ∧
        (xorSum bs ≠ b → t.disp = s.disp ∧
          t.events = s.events ++ [.outcome (.checksumMismatch (xorSum bs) b)]))

/-- R96 (decision D9 of the spec, for totality alone): a byte step with `rx_cnt >= 64` resets the Parser State, with the
outcome `BufferOverrun`. No run reaches it. -/
def Obligations.OverrunResetsTheParser : Prop :=
  ∀ (b : Byte) (s : State), 64 ≤ s.rx.cnt →
    ∃ t, exec (decodeByteStep (rxStateCode s.rx.state) b) s = .next t ∧ ParserEmpty t.rx ∧ SameRxBuf s t ∧
      t.disp = s.disp ∧ OnlyRx s t ∧ t.events = s.events ++ [.outcome .bufferOverrun]

/-- R87: the selected byte step is total in a good state and reads nothing but the RX registers and the registry: in every
state with the same ones it gives the same new RX registers, records the same events and hands off the same frame or
none, and leaves every other field as it was there. -/
def Obligations.ByteStepsReadOnlyParserAndRegistry : Prop :=
  ∀ (b : Byte) (s : State), RxInv s.rx →
    ∃ (r : RxRegs) (d : Option Dispatch) (es : List Event), ∀ u : State, u.rx = s.rx → u.reg = s.reg →
      exec (decodeByteStep (rxStateCode u.rx.state) b) u =
        .next { u with rx := r, disp := d.or u.disp, events := u.events ++ es }

/-- R105 (derived by the spec): a byte step hands a frame off only at the last byte of a well-formed frame, and with the
handler that was latched. -/
def Obligations.OnlyWholeFramesAreDispatched : Prop :=
  ∀ (b : Byte) (s t : State) (d : Dispatch), RxInv s.rx → s.disp = none →
    exec (decodeByteStep (rxStateCode s.rx.state) b) s = .next t → t.disp = some d →
    ∃ bs, inFlight s.rx = .next bs ∧ bs ++ [b] = encodeFrame d.id d.payload ∧ d.payload.length ≤ 60 ∧
      s.rx.handler = some d.handler

/-- R66: decoding an encoded frame gives its identifier and its payload; read through the framer: from `AwaitSync`, with a
handler registered, the bytes of `encode(id, P)` are consumed one by one and the last one dispatches `(id, P)` to that
handler; the framer is back in `AwaitSync`. In which order the last byte's two events stand is left open (log 13). -/
def Obligations.EncodedFramesAreDispatched : Prop :=
  ∀ (s : State) (id : Byte) (h : Handler) (payload : List Byte), RxInv s.rx → s.rx.state = .awaitSync →
    resolve s.reg id = some h → payload.length ≤ 60 →
    decodeFrame (encodeFrame id payload) = .ok (frameInstr id payload) [] ∧
    (frameInstr id payload).frame? = some (id, payload) ∧
    ∃ t es, feedBytes (encodeFrame id payload) s = .next t ∧
      t.disp = some { id := id, handler := h, payload := payload } ∧ ParserEmpty t.rx ∧ OnlyRx s t ∧
      t.events = s.events ++ List.replicate (payload.length + 3) (.outcome .consumed) ++ es ∧
      es.Perm [.outcome (.dispatched id h payload), .dispatch id h payload]

/-- R85 (derived by the spec): a corruption of one payload byte of a well-formed frame is detected: no handler is
invoked, and the last byte is a checksum mismatch. -/
def Obligations.OneCorruptedPayloadByteIsDetected : Prop :=
  ∀ (s : State) (id : Byte) (h : Handler) (payload : List Byte) (k : Nat) (v : Byte), RxInv s.rx →
    s.rx.state = .awaitSync → resolve s.reg id = some h → payload.length ≤ 60 → (hk : k < payload.length) →
    v ≠ payload[k] →
    ∃ t c, feedBytes ((encodeFrame id payload).set (3 + k) v) s = .next t ∧ t.disp = s.disp ∧ ParserEmpty t.rx ∧
      c ≠ xorSum (encodeFrame id payload).dropLast ∧
      t.events = s.events ++ List.replicate (payload.length + 3) (.outcome .consumed) ++
        [.outcome (.checksumMismatch c (xorSum (encodeFrame id payload).dropLast))]

/-- R70, R104 (R104 derived by the spec): from `AwaitSync`, bytes none of which is 0xAA are discarded one by one and the
Parser State stays as it was. -/
def Obligations.NoiseIsDiscardedByteByByte : Prop :=
  ∀ (g : List Byte) (s : State), s.rx.state = .awaitSync → s.rx.cnt = 0 → (∀ b ∈ g, b ≠ 0xAA) →
    feedBytes g s = .next { s with events := s.events ++ g.map fun b => .outcome (.syncError b) }

/-! ## The serializer -/

/-- R106: `send` with at most 60 payload bytes builds the frame in `tx_buf`, hands it to the transport in one write and
begins the flush, whatever the identifier (R108) and the registry; with its frame. (R106 carries the spec's decision D18
for building in `tx_buf`.) -/
def Obligations.SendWritesTheEncodedFrame : Prop :=
  ∀ (id : Byte) (payload : List Byte) (s : State), s.tx.phase = .idle → payload.length ≤ 60 →
    ∃ t, exec (.send id payload) s = .next t ∧ FrameSent (encodeFrame id payload) s t ∧ OnlyTx s t ∧
      t.active = s.active

/-- R107 (decision D16 of the spec; log 9): `send` with more than 60 payload bytes writes nothing, flushes nothing and
changes no state; the refusal is reported. -/
def Obligations.OversizedSendOnlyReportsRefusal : Prop :=
  ∀ (id : Byte) (payload : List Byte) (s : State), s.tx.phase = .idle → 60 < payload.length →
    exec (.send id payload) s = .next { s with events := s.events ++ [.sendRefused .payloadTooLong] }

/-- R110 (decision D20 of the spec): while a flush is in progress a `send`, and a transmitted reply, is held: it is
neither dropped nor refused, and nothing is written; when the flush is over the block's next step runs the oldest held
operation. -/
def Obligations.SendsAreHeldDuringAFlush : Prop :=
  (∀ (id : Byte) (payload : List Byte) (s : State), s.tx.phase = .flushing →
    exec (.send id payload) s = .next { s with held := s.held ++ [.send id payload] }) ∧
  (∀ (n : Byte) (s : State), s.tx.phase = .flushing →
    exec (.hsId n) s = .next { s with held := s.held ++ [.send 0xFF [n]] } ∧
    exec .hsOk s = .next { s with held := s.held ++ [.send 0xFF [0xAA]] } ∧
    exec .hsErr s = .next { s with held := s.held ++ [.send 0xFF [0xFF]] }) ∧
  ∀ (op : HostOp) (i : Instr) (rest : List HostOp) (s : State), s.sched = [] → s.tx.phase = .idle →
    s.held = op :: rest → decode (.request op) = .ok i [] → step s = exec i { s with held := rest }

/-- R53, R55: operations run in the order of their calls, and no frame is written while an older operation is held: a step
leaves the held operations as they are, adds one at their end, or takes the oldest, and a frame written while some are
held is that of the oldest, a `send`. -/
def Obligations.HeldOperationsRunInOrder : Prop :=
  ∀ s t : State, (∀ n ms, s.sched ≠ .rst n :: ms) → step s = .next t →
    (t.held = s.held ∨ (∃ op, t.held = s.held ++ [op]) ∨ ∃ op, s.held = op :: t.held) ∧
    ∀ f, s.held ≠ [] → .write f ∈ t.events.drop s.events.length →
      ∃ id payload, payload.length ≤ 60 ∧ f = encodeFrame id payload ∧ s.held = .send id payload :: t.held

/-- R78 (derived by the spec from R64 and R68): the three reply rows transmit their five bytes; with their frame. -/
def Obligations.ReplyRowsTransmitTheirFrames : Prop :=
  ∀ (n : Byte) (s : State), s.tx.phase = .idle →
    (∃ t, exec (.hsId n) s = .next t ∧ FrameSent [0xAA, 0x05, 0xFF, n, 0x50 ^^^ n] s t ∧ OnlyTx s t ∧
      t.active = s.active) ∧
    (∃ t, exec .hsOk s = .next t ∧ FrameSent [0xAA, 0x05, 0xFF, 0xAA, 0xFA] s t ∧ OnlyTx s t ∧ t.active = s.active) ∧
    (∃ t, exec .hsErr s = .next t ∧ FrameSent [0xAA, 0x05, 0xFF, 0xFF, 0xAF] s t ∧ OnlyTx s t ∧ t.active = s.active)

/-- R42, R150: the flush is over only when `TXQ` is empty; until then the block waits and changes nothing; and no step
adds to `TXQ` while a flush is in progress (R53). That it is the block's own next step that ends the flush, with
`EvFlushDone`, an event R45 gives to the transport, is the model's choice (log 23). -/
def Obligations.FlushEndsOnlyOnAnEmptyQueue : Prop :=
  (∀ s : State, s.sched = [] → s.tx.phase = .flushing → s.tp.txq ≠ [] → step s = .next s) ∧
  (∀ s : State, s.sched = [] → s.tx.phase = .flushing → s.tp.txq = [] →
    step s = .next { s with tx := { s.tx with phase := .idle }, events := s.events ++ [.flushDone] }) ∧
  ∀ s t : State, s.tx.phase = .flushing → (∀ n ms, s.sched ≠ .rst n :: ms) → step s = .next t →
    (t.tx.phase = .idle → s.tp.txq = []) ∧ ∃ k, t.tp.txq = (s.tp.txq.drop k).take t.tp.txq.length

/-! ## Received frames -/

/-- R97 (decision D15 of the spec): a dispatched frame whose latched handler is a user handler is delivered to it: the
handler runs with the identifier and the payload, and nothing else changes. This holds for user frames and, when the
reserved entry has been rebound (R114, `HS_LOCKED = false`), for handshake frames. -/
def Obligations.FramesAreDeliveredToTheLatchedHandler : Prop :=
  ∀ (i : Instr) (d : Dispatch) (tag : Nat) (s : State), i.transmittedOnly = false →
    i.frame? = some (d.id, d.payload) → d.handler = .user tag → s.disp = some d → s.active = none →
    exec i s = .next { s with active := some d }

/-- R97: a handler is invoked exactly once for an accepted frame. That the meaning of a frame that is not the one handed
off, or whose handler runs already, is the fault `frameNotDispatched` is the model's choice (log 21). -/
def Obligations.AHandlerIsInvokedOnlyOnce : Prop :=
  ∀ (i : Instr) (id : Byte) (payload : List Byte) (s : State), i.transmittedOnly = false →
    i.frame? = some (id, payload) →
    (s.active ≠ none ∨ ∀ h, s.disp ≠ some { id := id, handler := h, payload := payload }) →
    exec i s = .fault .frameNotDispatched

/-- R68: the first payload byte of a handshake frame selects the query and nothing else in the payload is examined: a
request is answered with `[NODE_ID]`; a confirmation with `[0xAA]` if the byte equals `NODE_ID` and with `[0xFF]`
otherwise. The request test comes first. The reply goes out under the reserved identifier; with the frame. -/
def Obligations.HandshakeQueriesAreAnswered : Prop :=
  ∀ (p : Byte) (rest : List Byte) (s : State),
    s.disp = some { id := 0xFF, handler := .hs, payload := p :: rest } → s.active = none → s.tx.phase = .idle →
    ∃ t, exec (if p = 0x00 then .hsReq rest else .hsConfirm p rest) s = .next t ∧
      FrameSent (encodeFrame 0xFF [if p = 0x00 then s.nodeId else if p = s.nodeId then 0xAA else 0xFF]) s t ∧
      OnlyTx s t ∧ t.active = s.disp

/-- R68: the first payload byte of a handshake frame selects the query and with it the reply, `[NODE_ID]`, `[0xAA]` or
`[0xFF]`: the meaning of the query is that of one of the three reply rows, whatever is in progress on the transmit side.
That its handler has been invoked stands in a field of the model's own (log 6). -/
def Obligations.TheResponderTransmitsAReplyRow : Prop :=
  ∀ (p : Byte) (rest : List Byte) (s : State),
    s.disp = some { id := 0xFF, handler := .hs, payload := p :: rest } → s.active = none →
    exec (if p = 0x00 then .hsReq rest else .hsConfirm p rest) s =
      exec (if p = 0x00 then .hsId s.nodeId else if p = s.nodeId then .hsOk else .hsErr) { s with active := s.disp }

/-- R97: the responder answers whatever identifier it is registered under: a user frame whose latched handler is `HS` is
answered as its payload says, and an empty payload gets no reply (log 11). -/
def Obligations.TheResponderAnswersUserFramesToo : Prop :=
  ∀ (id : Byte) (payload : List Byte) (s : State),
    s.disp = some { id := id, handler := .hs, payload := payload } → s.active = none → s.tx.phase = .idle →
    (payload = [] → exec (.cmd id payload) s = .next { s with active := s.disp }) ∧
    ∀ p rest, payload = p :: rest → ∃ t, exec (.cmd id payload) s = .next t ∧
      FrameSent (encodeFrame 0xFF [if p = 0x00 then s.nodeId else if p = s.nodeId then 0xAA else 0xFF]) s t ∧
      OnlyTx s t ∧ t.active = s.disp

/-- R122 (the spec's own choice, decision D21; log 11): an empty handshake frame gets no reply and changes no state but
that its handler has been invoked. -/
def Obligations.EmptyHandshakeGetsNoReply : Prop :=
  ∀ s : State, s.disp = some { id := 0xFF, handler := .hs, payload := [] } → s.active = none →
    exec .hsEmpty s = .next { s with active := s.disp }

/-- R119, R54, R98, under one schedule, that in which the transport sends the five bytes at once: a handshake query in
`disp` with nothing else in progress is answered, the answer is transmitted, the responder returns and the poll ends, in
that order; the framer has read nothing meanwhile. What a step is, and which step ends the flush, are logs 18 and 23. For
every schedule see `RepliesAreTransmittedBeforeThePollEnds`. -/
def Obligations.AQueryIsAnsweredBeforeThePollEnds : Prop :=
  ∀ (p : Byte) (rest : List Byte) (s : State) (ms : List Move),
    s.disp = some { id := 0xFF, handler := .hs, payload := p :: rest } → s.active = none → s.tx.phase = .idle →
    s.held = [] → s.tp.txq = [] → s.pollActive = true →
    s.sched = [.block, .sent, .sent, .sent, .sent, .sent, .block, .block, .block] ++ ms →
    ∃ t, steps 9 s = .next t ∧ t.pollActive = false ∧ t.disp = none ∧ t.active = none ∧ t.tx.phase = .idle ∧
      t.tp.txq = [] ∧ t.tp.rxq = s.tp.rxq ∧ t.rx = s.rx ∧ t.reg = s.reg ∧ t.sched = ms ∧
      t.events = s.events ++
        [.write (encodeFrame 0xFF [if p = 0x00 then s.nodeId else if p = s.nodeId then 0xAA else 0xFF]),
          .flushDone, .handlerReturn, .pollEnd]

/-! ## Host operations -/

/-- R98 line 0, R101: `poll` begins: the RX state is kept under `persist` and dropped under `drop_at_poll_start`; with
its frame. -/
def Obligations.PollBegins : Prop :=
  ∀ s : State, s.pollActive = false →
    ∃ t, exec .poll s = .next t ∧ t.pollActive = true ∧ t.pollEnding = false ∧
      t.events = s.events ++ [.pollStart] ∧
      (s.params.rxPartialPolicy = .persist → t.rx = s.rx) ∧
      (s.params.rxPartialPolicy = .dropAtPollStart → ParserEmpty t.rx ∧ SameRxBuf s t) ∧
      t.disp = s.disp ∧ t.active = s.active ∧ t.tx = s.tx ∧ t.held = s.held ∧
      t.handlerReturning = s.handlerReturning ∧ t.reg = s.reg ∧
      t.nodeId = s.nodeId ∧ t.tp = s.tp ∧ t.params = s.params ∧ t.hostReq = s.hostReq ∧ t.sched = s.sched ∧
      t.result = s.result

/-- R102 (decision D7 of the spec, U3): `poll` inside a poll is refused. -/
def Obligations.PollIsNotReentrant : Prop :=
  ∀ s : State, s.pollActive = true → exec .poll s = .refused .pollReentered

/-- R113, R114: `registerHandler` binds its identifier and no other, except that a locked reserved entry is left as it
is; whether it was applied is reported; with its frame. (R113 and R114 carry the spec's decisions D30 and D13.) -/
def Obligations.RegisterBindsItsIdentifierOnly : Prop :=
  ∀ (i : Byte) (h : Handler) (s : State),
    ∃ t, exec (.register i h) s = .next t ∧
      (i = 0xFF ∧ s.params.hsLocked = true → t = { s with events := s.events ++ [.register i h false] }) ∧
      (¬ (i = 0xFF ∧ s.params.hsLocked = true) →
        resolve t.reg i = some h ∧ (∀ j : Byte, j ≠ i → resolve t.reg j = resolve s.reg j) ∧
        t = { s with reg := t.reg, events := s.events ++ [.register i h true] })

/-- R117 (decision D33 of the spec): `getNodeID` gives its caller `NODE_ID`, and nothing else changes. That the answer
stands in a field of the model's own is log 8. -/
def Obligations.GetNodeIdReturnsTheIdentity : Prop :=
  ∀ s : State, exec .getNodeId s = .next { s with result := some s.nodeId }

/-! ## A step -/

/-- R98 lines 1 and 2, R87: when the block scans and a byte is available, the oldest byte is read and the byte step that
the state code of `rx_state` and that byte decode to is run; when no byte is available the poll comes to its end (lines 1
and 4). That lines 1 and 2, a step each in R98, are one step here is the model's choice (log 18). -/
def Obligations.AStepRunsTheSelectedByteStep : Prop :=
  (∀ (s : State) (b : Byte) (q : List Byte) (i : Instr), Scanning s → s.tp.rxq = b :: q →
    decode (.byteStep (rxStateCode s.rx.state) b) = .ok i [] →
    step s = exec i { s with tp := { s.tp with rxq := q }, events := s.events ++ [.read b] }) ∧
  ∀ s : State, Scanning s → s.tp.rxq = [] →
    steps 2 s = .next { s with pollActive := false, events := s.events ++ [.pollEnd] }

/-- R97: when a frame is handed off, its handler has not been invoked and no flush is in progress, a step runs the
instruction that the bytes of that frame decode to. -/
def Obligations.AStepRunsTheDispatchedFrame : Prop :=
  ∀ (s : State) (d : Dispatch) (i : Instr), s.sched = [] → s.tx.phase = .idle → s.held = [] →
    s.disp = some d → s.active = none → decode (.frame (encodeFrame d.id d.payload)) = .ok i [] →
    step s = exec i s

/-- R10, R97: when nothing is in progress a step runs an operation the host has invoked (that it is the oldest is the
model's choice, log 7), and an operation a running user handler invokes with no `send` of its own in progress. What a
handler does during its own `send` is log 17. -/
def Obligations.AStepRunsTheInvokedOperation : Prop :=
  (∀ (s : State) (op : HostOp) (rest : List HostOp) (i : Instr), s.sched = [] → quiescent s → s.held = [] →
    s.hostReq = op :: rest → decode (.request op) = .ok i [] → step s = exec i { s with hostReq := rest }) ∧
  ∀ (s : State) (op : HostOp) (ms : List Move) (d : Dispatch) (tag : Nat) (i : Instr),
    s.sched = .handlerCall op :: ms → s.active = some d → d.handler = .user tag → s.handlerReturning = false →
    s.tx.phase = .idle → s.held = [] → decode (.request op) = .ok i [] → step s = exec i { s with sched := ms }

/-- R55, R53, R106 (log 17): a running user handler is one thread, so what it does during a `send` of its own waits: an
operation is held, and its return is carried out by the block when the flush is over and nothing is held. -/
def Obligations.AHandlersActionsWaitForItsSend : Prop :=
  ∀ (s : State) (ms : List Move) (d : Dispatch) (tag : Nat), s.active = some d → d.handler = .user tag →
    (∀ op, s.sched = .handlerCall op :: ms → s.handlerReturning = false → (s.tx.phase = .flushing ∨ s.held ≠ []) →
      step s = .next { s with sched := ms, held := s.held ++ [op] }) ∧
    (s.sched = .handlerReturn :: ms → s.handlerReturning = false → (s.tx.phase = .flushing ∨ s.held ≠ []) →
      step s = .next { s with sched := ms, handlerReturning := true }) ∧
    (s.sched = [] → s.disp = some d → s.handlerReturning = true → s.tx.phase = .idle → s.held = [] →
      step s = .next { s with
        disp := none, active := none, handlerReturning := false, pollEnding := true,
        events := s.events ++ [.handlerReturn] })

/-- R97, R98 line 3: a running user handler that returns empties `disp`, and the poll ends at line 4 without reading
another byte (R100). -/
def Obligations.AReturningHandlerEndsThePoll : Prop :=
  ∀ (s : State) (ms : List Move) (d : Dispatch) (tag : Nat), s.sched = .handlerReturn :: .block :: ms →
    s.active = some d → d.handler = .user tag → s.handlerReturning = false → s.tx.phase = .idle → s.held = [] →
    s.pollActive = true →
    steps 2 s = .next { s with
      sched := ms, disp := none, active := none, pollActive := false, pollEnding := false,
      events := s.events ++ [.handlerReturn, .pollEnd] }

/-- R140, R142, R151: a quiescent block with nothing invoked does nothing, and neither does a block whose external handler
runs. -/
def Obligations.AnIdleOrWaitingBlockDoesNothing : Prop :=
  (∀ s : State, quiescent s → s.held = [] → s.hostReq = [] → s.sched = [] → step s = .next s) ∧
  ∀ (s : State) (d : Dispatch) (tag : Nat), s.sched = [] → s.tx.phase = .idle → s.held = [] →
    s.disp = some d → s.active = some d → d.handler = .user tag → s.handlerReturning = false → step s = .next s

/-- A scheduled `block` move is the step the block takes by itself, and uses up that move (log 1): the statements above
about an empty schedule hold of it. -/
def Obligations.AScheduledBlockMoveIsTheSameStep : Prop :=
  ∀ (s t : State) (ms : List Move), s.sched = [] → step s = .next t →
    step { s with sched := .block :: ms } = .next { t with sched := ms }

/-- R44 (decision D27 of the spec): what the transport agent does between the steps of the block: a byte arrives at the
tail of `RXQ`, or the head of `TXQ` is sent, and nothing else changes. -/
def Obligations.TheTransportMoves : Prop :=
  ∀ (s : State) (ms : List Move),
    (∀ b, s.sched = .arrive b :: ms →
      step s = .next { s with sched := ms, tp := { s.tp with rxq := s.tp.rxq ++ [b] } }) ∧
    (∀ b q, s.sched = .sent :: ms → s.tp.txq = b :: q →
      step s = .next { s with sched := ms, tp := { s.tp with txq := q } })

/-- R10, R102 (R102 by decision D7 of the spec; the order of the operations is log 7): an operation the host invokes
waits until nothing is in progress, but a `poll` inside a poll is refused. -/
def Obligations.AHostOperationWaitsItsTurn : Prop :=
  ∀ (s : State) (op : HostOp) (ms : List Move), s.sched = .request op :: ms →
    (¬ (op = .poll ∧ s.pollActive = true) →
      step s = .next { s with sched := ms, hostReq := s.hostReq ++ [op] }) ∧
    (op = .poll → s.pollActive = true → step s = .refused .pollReentered)

/-! ## Whole-machine rules -/

/-- The invariants of the block hold at reset. -/
def Obligations.ResetIsAGoodState : Prop := Inv State.reset

/-- R34, R35, R114, R18 (R34 and R35 derived by the spec): every step keeps the invariants of the block: the in-flight
frame is whole and `rx_chk` is its XOR, the framer's state is the one its count says, the frame being flushed is
well-formed, the buffers and the registry keep their canonical form, the reserved entry stays the handshake responder, a
frame is handed off only inside a poll, and only a handler that runs is about to return. -/
def Obligations.EveryStepKeepsAGoodState : Prop :=
  ∀ s t : State, Inv s → step s = .next t → Inv t

/-- R26: `NODE_ID` is written by nothing but reset; the parameters by nothing at all (R37). -/
def Obligations.NodeIdentityIsImmutable : Prop :=
  ∀ s t : State, (∀ n ms, s.sched ≠ .rst n :: ms) → step s = .next t →
    t.nodeId = s.nodeId ∧ t.params = s.params

/-- R116 (decision D31 of the spec): no step but reset removes a binding. -/
def Obligations.BindingsAreNeverRemoved : Prop :=
  ∀ (s t : State) (i : Byte), (∀ n ms, s.sched ≠ .rst n :: ms) → step s = .next t →
    (resolve s.reg i).isSome = true → (resolve t.reg i).isSome = true

/-- R114 (decision D13 of the spec): while it is locked, the reserved entry is the same after every step, reset aside. -/
def Obligations.TheLockedEntryNeverChanges : Prop :=
  ∀ s t : State, s.params.hsLocked = true → (∀ n ms, s.sched ≠ .rst n :: ms) → step s = .next t →
    resolve t.reg 0xFF = resolve s.reg 0xFF

/-- R44, R48, R52: a step leaves `RXQ` as it is, or a byte arrives at its tail, or the block reads exactly its oldest byte,
which the event history shows. -/
def Obligations.ReceivedBytesAreReadInOrder : Prop :=
  ∀ s t : State, step s = .next t →
    t.tp.rxq = s.tp.rxq ∨ (∃ b, t.tp.rxq = s.tp.rxq ++ [b]) ∨
      ∃ b es, s.tp.rxq = b :: t.tp.rxq ∧ t.events = s.events ++ .read b :: es

/-- R18, R97, R100: while a frame is handed off, no step but reset touches the Parser State, none reads a byte, and none
ends the poll. -/
def Obligations.TheFramerIsHeldWhileAHandlerRuns : Prop :=
  ∀ s t : State, Inv s → s.disp ≠ none → (∀ n ms, s.sched ≠ .rst n :: ms) → step s = .next t →
    t.rx = s.rx ∧ (t.tp.rxq = s.tp.rxq ∨ ∃ b, t.tp.rxq = s.tp.rxq ++ [b]) ∧ t.pollActive = s.pollActive

/-- R54, R97 (R54 derived by the spec), step by step and so under every schedule: `TXQ` is empty whenever no flush is in
progress; a handler returns, the poll ends and a byte is read only when everything sent has been transmitted; and the
poll ends and a byte is read only when no handler runs. (That `TXQ` is empty at first is log 3.) -/
def Obligations.RepliesAreTransmittedBeforeThePollEnds : Prop :=
  ∀ s t : State, Inv s → (s.tx.phase = .idle → s.tp.txq = []) → (∀ n ms, s.sched ≠ .rst n :: ms) → step s = .next t →
    (t.tx.phase = .idle → t.tp.txq = []) ∧
    (s.disp ≠ none → t.disp = none → t.tx.phase = .idle ∧ t.held = [] ∧ t.tp.txq = []) ∧
    (s.pollActive = true → t.pollActive = false → s.disp = none ∧ s.held = [] ∧ s.tp.txq = []) ∧
    ∀ b, s.tp.rxq = b :: t.tp.rxq → s.disp = none ∧ s.held = [] ∧ s.tp.txq = []

/-- R45: the event history only grows. -/
def Obligations.TheEventHistoryOnlyGrows : Prop :=
  ∀ s t : State, step s = .next t → ∃ es, t.events = s.events ++ es

/-- R111, R43: the write-error flag has no effect on the block: with another value of it, every step does the same and
keeps that value, unless the transport itself drives the flag. -/
def Obligations.TheWriteErrorFlagHasNoEffect : Prop :=
  ∀ (s t : State) (v : Bool), (∀ w ms, s.sched ≠ .writeError w :: ms) → step s = .next t →
    t.tp.werr = s.tp.werr ∧
      step { s with tp := { s.tp with werr := v } } = .next { t with tp := { t.tp with werr := v } }

/-- R98, R99: left to itself, a scanning block ends its scan within one step more than there are bytes in `RXQ`: it
has handed off a frame, or it has read every byte. What a step is, is log 18. -/
def Obligations.AScanEnds : Prop :=
  ∀ s : State, Inv s → Scanning s →
    ∃ k t, k ≤ s.tp.rxq.length + 1 ∧ steps k s = .next t ∧
      (t.disp ≠ none ∨ (t.pollEnding = true ∧ t.tp.rxq = []))

/-- R98, R103, R100 (R103 derived by the spec): a scanning block in `AwaitSync` whose `RXQ` begins with a frame for a
registered identifier dispatches that frame after exactly its bytes, and leaves the bytes after it unread. The count of
`|P| + 4` steps, one for each byte, rests on the model's choice of what a step is (log 18). -/
def Obligations.AScanDispatchesTheFrameAtTheFront : Prop :=
  ∀ (s : State) (id : Byte) (h : Handler) (payload rest : List Byte), Inv s → Scanning s →
    s.rx.state = .awaitSync → resolve s.reg id = some h → payload.length ≤ 60 →
    s.tp.rxq = encodeFrame id payload ++ rest →
    ∃ t, steps (payload.length + 4) s = .next t ∧
      t.disp = some { id := id, handler := h, payload := payload } ∧ t.active = none ∧ t.tp.rxq = rest ∧
      ParserEmpty t.rx ∧ t.pollActive = true ∧ t.reg = s.reg ∧ t.tx = s.tx ∧ t.tp.txq = s.tp.txq
end

