-- ==== Sys2Proof/Laws/Checksum.lean ====
section
/-! SUPPORT. Laws/Checksum.lean: the small lemmas of `XOR(s)` (R80) and of the frame it closes (R64). -/

namespace Sys2Proof

@[simp] theorem xorSum_nil : xorSum [] = 0#8 := rfl

@[simp] theorem xorSum_cons (b : Byte) (bs : List Byte) : xorSum (b :: bs) = b ^^^ xorSum bs := rfl

theorem xorSum_append_singleton (s : List Byte) (b : Byte) : xorSum (s ++ [b]) = xorSum s ^^^ b := by
  induction s with
  | nil => simp
  | cons a s ih => simp [ih, BitVec.xor_assoc]

@[simp] theorem encodeFrame_length (id : Byte) (payload : List Byte) :
    (encodeFrame id payload).length = payload.length + 4 := by
  simp [encodeFrame]

/-- The frame as its header, its payload and its checksum. -/
theorem encodeFrame_eq (id : Byte) (payload : List Byte) :
    encodeFrame id payload =
      Config.sync :: BitVec.ofNat 8 (payload.length + 4) :: id :: (payload ++
        [xorSum (Config.sync :: BitVec.ofNat 8 (payload.length + 4) :: id :: payload)]) := by
  simp [encodeFrame, Config.overhead]

end Sys2Proof
end

