-- ==== Sys2Proof/Laws/Memory.lean ====
section
/-! SUPPORT. Laws/Memory.lean: sparse tables: read after write, the canonical form is kept, and equal contents are
equal tables. -/

namespace Sys2Proof.Machine

variable {α : Type}

@[simp] theorem tableGet_nil (i : Nat) : tableGet ([] : Table α) i = none := rfl

@[simp] theorem tableGet_set_same (m : Table α) (i : Nat) (x : α) : tableGet (tableSet m i x) i = some x := by
  induction m with
  | nil => simp [tableSet, tableGet]
  | cons c t ih =>
    obtain ⟨k, v⟩ := c
    simp only [tableSet]
    split
    · simp [tableGet]
    · split
      · simp [tableGet]
      · rename_i h1 h2
        simp [tableGet, Ne.symm h2, ih]

theorem tableGet_set_other (m : Table α) {i j : Nat} (x : α) (h : j ≠ i) :
    tableGet (tableSet m i x) j = tableGet m j := by
  induction m with
  | nil => simp [tableSet, tableGet, Ne.symm h]
  | cons c t ih =>
    obtain ⟨k, v⟩ := c
    simp only [tableSet]
    split
    · simp [tableGet, Ne.symm h]
    · split
      · rename_i h1 h2
        subst h2
        simp [tableGet, Ne.symm h]
      · simp [tableGet, ih]

theorem tableGet_set (m : Table α) (i j : Nat) (x : α) :
    tableGet (tableSet m i x) j = if j = i then some x else tableGet m j := by
  by_cases h : j = i
  · subst h; simp
  · simp [h, tableGet_set_other m x h]

theorem tableWf_mono {m : Table α} {lo lo' hi : Nat} (hl : lo' ≤ lo) (h : tableWf m lo hi = true) :
    tableWf m lo' hi = true := by
  cases m with
  | nil => rfl
  | cons c t =>
    obtain ⟨k, v⟩ := c
    simp only [tableWf, Bool.and_eq_true, decide_eq_true_eq] at h ⊢
    exact ⟨⟨by omega, h.1.2⟩, h.2⟩

/-- A write inside the range keeps the canonical form. -/
theorem tableSet_wf {m : Table α} {lo hi i : Nat} (x : α) (h : tableWf m lo hi = true) (hlo : lo ≤ i) (hhi : i < hi) :
    tableWf (tableSet m i x) lo hi = true := by
  induction m generalizing lo with
  | nil => simp [tableSet, tableWf, hlo, hhi]
  | cons c t ih =>
    obtain ⟨k, v⟩ := c
    simp only [tableWf, Bool.and_eq_true, decide_eq_true_eq] at h
    simp only [tableSet]
    split
    · rename_i h1
      simp only [tableWf, Bool.and_eq_true, decide_eq_true_eq]
      exact ⟨⟨hlo, hhi⟩, ⟨by omega, h.1.2⟩, h.2⟩
    · split
      · rename_i h1 h2
        subst h2
        simp only [tableWf, Bool.and_eq_true, decide_eq_true_eq]
        exact ⟨⟨hlo, hhi⟩, h.2⟩
      · simp only [tableWf, Bool.and_eq_true, decide_eq_true_eq]
        exact ⟨h.1, ih h.2 (by omega)⟩

/-- A canonical table holds nothing outside its range. -/
theorem tableGet_out_of_range {m : Table α} {lo hi i : Nat} (h : tableWf m lo hi = true) (hi' : i < lo ∨ hi ≤ i) :
    tableGet m i = none := by
  induction m generalizing lo with
  | nil => rfl
  | cons c t ih =>
    obtain ⟨k, v⟩ := c
    simp only [tableWf, Bool.and_eq_true, decide_eq_true_eq] at h
    have hk : k ≠ i := by omega
    simp only [tableGet, if_neg hk]
    exact ih h.2 (by omega)

/-- Two canonical tables that hold the same are the same. -/
theorem table_ext {m m' : Table α} {lo hi : Nat} (h : tableWf m lo hi = true) (h' : tableWf m' lo hi = true)
    (e : ∀ i, tableGet m i = tableGet m' i) : m = m' := by
  induction m generalizing m' lo with
  | nil =>
    cases m' with
    | nil => rfl
    | cons c t => simpa [tableGet] using e c.1
  | cons c t ih =>
    obtain ⟨k, v⟩ := c
    cases m' with
    | nil => simpa [tableGet] using e k
    | cons c' t' =>
      obtain ⟨k', v'⟩ := c'
      simp only [tableWf, Bool.and_eq_true, decide_eq_true_eq] at h h'
      have hk : k = k' := by
        rcases Nat.lt_trichotomy k k' with hlt | heq | hgt
        · have := e k
          simp only [tableGet, if_true, if_neg (show k' ≠ k by omega)] at this
          rw [tableGet_out_of_range h'.2 (Or.inl (by omega))] at this
          cases this
        · exact heq
        · have := e k'
          simp only [tableGet, if_true, if_neg (show k ≠ k' by omega)] at this
          rw [tableGet_out_of_range h.2 (Or.inl (by omega))] at this
          cases this
      subst hk
      have hv := e k
      simp only [tableGet, if_true, Option.some.injEq] at hv
      subst hv
      congr 1
      refine ih h.2 h'.2 fun i => ?_
      by_cases hi : k = i
      · subst hi
        rw [tableGet_out_of_range h.2 (Or.inl (by omega)), tableGet_out_of_range h'.2 (Or.inl (by omega))]
      · simpa [tableGet, hi] using e i

end Sys2Proof.Machine
end

