-- ==== Sys2Proof/Laws/Operands.lean ====
section
/-! SUPPORT. Laws/Operands.lean: one lemma for each operand operation, saying when it goes on and with what. -/

namespace Sys2Proof.Machine

variable {α β : Type}

@[simp] theorem andThen_next (x : α) (k : α → Ans β) : andThen (.next x) k = k x := rfl

@[simp] theorem andThen_fault (f : Fault) (k : α → Ans β) : andThen (.fault f) k = .fault f := rfl

@[simp] theorem andThen_refused (r : Refusal) (k : α → Ans β) : andThen (.refused r) k = .refused r := rfl

/-- If a sequence goes on, both of its parts do. -/
theorem andThen_eq_next {a : Ans α} {k : α → Ans β} {y : β} (h : andThen a k = .next y) :
    ∃ x, a = .next x ∧ k x = .next y := by
  cases a with
  | next x => exact ⟨x, rfl, h⟩
  | fault f => cases h
  | refused r => cases h

@[simp] theorem bufStore_in_range {m : Memory} {i : Nat} (b : Byte) (h : i < 64) :
    bufStore m i b = .next (tableSet m i b) := if_pos h

theorem bufStore_eq_next {m m' : Memory} {i : Nat} {b : Byte} (h : bufStore m i b = .next m') :
    i < 64 ∧ m' = tableSet m i b := by
  unfold bufStore at h
  split at h
  · rename_i hi
    cases h
    exact ⟨hi, rfl⟩
  · cases h

/-- A store keeps the canonical form of a buffer. -/
theorem bufStore_wf {m m' : Memory} {i : Nat} {b : Byte} (hm : Memory.wf m = true) (h : bufStore m i b = .next m') :
    Memory.wf m' = true := by
  obtain ⟨hi, rfl⟩ := bufStore_eq_next h
  exact tableSet_wf b hm (Nat.zero_le _) hi

@[simp] theorem bufLoad_valid {valid : Nat} {m : Memory} {i : Nat} {b : Byte} (h : i < 64) (hv : i < valid)
    (hg : tableGet m i = some b) : bufLoad valid m i = .next b := by
  have hc : i < Config.bufCap := h
  simp [bufLoad, hc, hv, hg]

theorem bufLoad_eq_next {valid : Nat} {m : Memory} {i : Nat} {b : Byte} (h : bufLoad valid m i = .next b) :
    i < 64 ∧ i < valid ∧ tableGet m i = some b := by
  unfold bufLoad at h
  split at h
  · rename_i hi
    split at h
    · rename_i hv
      split at h
      · rename_i x hx
        cases h
        exact ⟨hi, hv, hx⟩
      · cases h
    · cases h
  · cases h

@[simp] theorem bufSlice_zero (valid : Nat) (m : Memory) (i : Nat) : bufSlice valid m i 0 = .next [] := rfl

/-- A slice goes on with the listed bytes exactly when each of its entries is there and valid. -/
theorem bufSlice_eq_next {valid : Nat} {m : Memory} {i n : Nat} {bs : List Byte} :
    bufSlice valid m i n = .next bs ↔
      bs.length = n ∧ ∀ j, j < n → i + j < 64 ∧ i + j < valid ∧ tableGet m (i + j) = bs[j]? := by
  induction n generalizing i bs with
  | zero =>
    constructor
    · intro h
      cases h
      exact ⟨rfl, fun j hj => absurd hj (Nat.not_lt_zero j)⟩
    · rintro ⟨h, -⟩
      rw [List.length_eq_zero_iff] at h
      subst h
      rfl
  | succ n ih =>
    constructor
    · intro h
      obtain ⟨b, hb, h1⟩ := andThen_eq_next h
      obtain ⟨cs, hcs, h2⟩ := andThen_eq_next h1
      cases h2
      obtain ⟨hi, hv, hg⟩ := bufLoad_eq_next hb
      obtain ⟨hl, hall⟩ := ih.mp hcs
      refine ⟨by simp [hl], fun j hj => ?_⟩
      cases j with
      | zero => exact ⟨hi, hv, by simpa using hg⟩
      | succ j =>
        obtain ⟨a, b', c⟩ := hall j (by omega)
        refine ⟨by omega, by omega, ?_⟩
        rw [show i + (j + 1) = i + 1 + j by omega, c]
        simp
    · rintro ⟨hl, hall⟩
      cases bs with
      | nil => simp at hl
      | cons b cs =>
        obtain ⟨hi, hv, hg⟩ := hall 0 (by omega)
        have hb : bufLoad valid m i = .next b := bufLoad_valid hi hv (by simpa using hg)
        have hcs : bufSlice valid m (i + 1) n = .next cs := by
          refine ih.mpr ⟨by simpa using hl, fun j hj => ?_⟩
          obtain ⟨a, b', c⟩ := hall (j + 1) (by omega)
          refine ⟨by omega, by omega, ?_⟩
          rw [show i + 1 + j = i + (j + 1) by omega, c]
          simp
        simp [bufSlice, hb, hcs]

/-- A valid `rx_len` is read as it is. -/
theorem readLen_valid {s : State} {l : Nat} (h : s.rx.len = some l) : readLen s = l := by
  simp [readLen, h]

/-- A valid `rx_handler` is read as it is. -/
theorem readHandler_valid {s : State} {h : Handler} (hh : s.rx.handler = some h) : readHandler s = h := by
  simp [readHandler, hh]

@[simp] theorem resolve_bind_same (reg : Table Handler) (i : Byte) (h : Handler) :
    resolve (bindHandler reg i h) i = some h := tableGet_set_same _ _ _

theorem resolve_bind_other (reg : Table Handler) {i j : Byte} (h : Handler) (hj : j ≠ i) :
    resolve (bindHandler reg i h) j = resolve reg j :=
  tableGet_set_other _ _ fun e => hj (BitVec.eq_of_toNat_eq e)

theorem bindHandler_wf {reg : Table Handler} (i : Byte) (h : Handler) (hw : tableWf reg 0 256 = true) :
    tableWf (bindHandler reg i h) 0 256 = true :=
  tableSet_wf h hw (Nat.zero_le _) i.isLt

end Sys2Proof.Machine
end

