-- ==== Sys2Proof/Laws/State.lean ====
section
/-! SUPPORT. Laws/State.lean: one lemma for each field of State under each named update, so that no proof unfolds a
record update. -/

namespace Sys2Proof.Machine

/-! ### logEvent -/

@[simp] theorem logEvent_rx (e : Event) (s : State) : (logEvent e s).rx = s.rx := rfl

@[simp] theorem logEvent_pollActive (e : Event) (s : State) : (logEvent e s).pollActive = s.pollActive := rfl

@[simp] theorem logEvent_pollEnding (e : Event) (s : State) : (logEvent e s).pollEnding = s.pollEnding := rfl

@[simp] theorem logEvent_disp (e : Event) (s : State) : (logEvent e s).disp = s.disp := rfl

@[simp] theorem logEvent_active (e : Event) (s : State) : (logEvent e s).active = s.active := rfl

@[simp] theorem logEvent_tx (e : Event) (s : State) : (logEvent e s).tx = s.tx := rfl

@[simp] theorem logEvent_held (e : Event) (s : State) : (logEvent e s).held = s.held := rfl

@[simp] theorem logEvent_handlerReturning (e : Event) (s : State) : (logEvent e s).handlerReturning = s.handlerReturning := rfl

@[simp] theorem logEvent_reg (e : Event) (s : State) : (logEvent e s).reg = s.reg := rfl

@[simp] theorem logEvent_nodeId (e : Event) (s : State) : (logEvent e s).nodeId = s.nodeId := rfl

@[simp] theorem logEvent_tp (e : Event) (s : State) : (logEvent e s).tp = s.tp := rfl

@[simp] theorem logEvent_params (e : Event) (s : State) : (logEvent e s).params = s.params := rfl

@[simp] theorem logEvent_hostReq (e : Event) (s : State) : (logEvent e s).hostReq = s.hostReq := rfl

@[simp] theorem logEvent_sched (e : Event) (s : State) : (logEvent e s).sched = s.sched := rfl

@[simp] theorem logEvent_events (e : Event) (s : State) : (logEvent e s).events = s.events ++ [e] := rfl

@[simp] theorem logEvent_result (e : Event) (s : State) : (logEvent e s).result = s.result := rfl

/-! ### logOutcome -/

@[simp] theorem logOutcome_rx (o : RxOutcome) (s : State) : (logOutcome o s).rx = s.rx := rfl

@[simp] theorem logOutcome_pollActive (o : RxOutcome) (s : State) : (logOutcome o s).pollActive = s.pollActive := rfl

@[simp] theorem logOutcome_pollEnding (o : RxOutcome) (s : State) : (logOutcome o s).pollEnding = s.pollEnding := rfl

@[simp] theorem logOutcome_disp (o : RxOutcome) (s : State) : (logOutcome o s).disp = s.disp := rfl

@[simp] theorem logOutcome_active (o : RxOutcome) (s : State) : (logOutcome o s).active = s.active := rfl

@[simp] theorem logOutcome_tx (o : RxOutcome) (s : State) : (logOutcome o s).tx = s.tx := rfl

@[simp] theorem logOutcome_held (o : RxOutcome) (s : State) : (logOutcome o s).held = s.held := rfl

@[simp] theorem logOutcome_handlerReturning (o : RxOutcome) (s : State) : (logOutcome o s).handlerReturning = s.handlerReturning := rfl

@[simp] theorem logOutcome_reg (o : RxOutcome) (s : State) : (logOutcome o s).reg = s.reg := rfl

@[simp] theorem logOutcome_nodeId (o : RxOutcome) (s : State) : (logOutcome o s).nodeId = s.nodeId := rfl

@[simp] theorem logOutcome_tp (o : RxOutcome) (s : State) : (logOutcome o s).tp = s.tp := rfl

@[simp] theorem logOutcome_params (o : RxOutcome) (s : State) : (logOutcome o s).params = s.params := rfl

@[simp] theorem logOutcome_hostReq (o : RxOutcome) (s : State) : (logOutcome o s).hostReq = s.hostReq := rfl

@[simp] theorem logOutcome_sched (o : RxOutcome) (s : State) : (logOutcome o s).sched = s.sched := rfl

@[simp] theorem logOutcome_events (o : RxOutcome) (s : State) : (logOutcome o s).events = s.events ++ [.outcome o] := rfl

@[simp] theorem logOutcome_result (o : RxOutcome) (s : State) : (logOutcome o s).result = s.result := rfl

/-! ### transportWrite -/

@[simp] theorem transportWrite_rx (f : List Byte) (s : State) : (transportWrite f s).rx = s.rx := rfl

@[simp] theorem transportWrite_pollActive (f : List Byte) (s : State) : (transportWrite f s).pollActive = s.pollActive := rfl

@[simp] theorem transportWrite_pollEnding (f : List Byte) (s : State) : (transportWrite f s).pollEnding = s.pollEnding := rfl

@[simp] theorem transportWrite_disp (f : List Byte) (s : State) : (transportWrite f s).disp = s.disp := rfl

@[simp] theorem transportWrite_active (f : List Byte) (s : State) : (transportWrite f s).active = s.active := rfl

@[simp] theorem transportWrite_tx (f : List Byte) (s : State) : (transportWrite f s).tx = s.tx := rfl

@[simp] theorem transportWrite_held (f : List Byte) (s : State) : (transportWrite f s).held = s.held := rfl

@[simp] theorem transportWrite_handlerReturning (f : List Byte) (s : State) : (transportWrite f s).handlerReturning = s.handlerReturning := rfl

@[simp] theorem transportWrite_reg (f : List Byte) (s : State) : (transportWrite f s).reg = s.reg := rfl

@[simp] theorem transportWrite_nodeId (f : List Byte) (s : State) : (transportWrite f s).nodeId = s.nodeId := rfl

@[simp] theorem transportWrite_tp (f : List Byte) (s : State) : (transportWrite f s).tp = { s.tp with txq := s.tp.txq ++ f } := rfl

@[simp] theorem transportWrite_params (f : List Byte) (s : State) : (transportWrite f s).params = s.params := rfl

@[simp] theorem transportWrite_hostReq (f : List Byte) (s : State) : (transportWrite f s).hostReq = s.hostReq := rfl

@[simp] theorem transportWrite_sched (f : List Byte) (s : State) : (transportWrite f s).sched = s.sched := rfl

@[simp] theorem transportWrite_events (f : List Byte) (s : State) : (transportWrite f s).events = s.events ++ [.write f] := rfl

@[simp] theorem transportWrite_result (f : List Byte) (s : State) : (transportWrite f s).result = s.result := rfl

/-! ### rxReset -/

@[simp] theorem rxReset_rx (s : State) : (rxReset s).rx = rxResetRegs s.rx := rfl

@[simp] theorem rxReset_pollActive (s : State) : (rxReset s).pollActive = s.pollActive := rfl

@[simp] theorem rxReset_pollEnding (s : State) : (rxReset s).pollEnding = s.pollEnding := rfl

@[simp] theorem rxReset_disp (s : State) : (rxReset s).disp = s.disp := rfl

@[simp] theorem rxReset_active (s : State) : (rxReset s).active = s.active := rfl

@[simp] theorem rxReset_tx (s : State) : (rxReset s).tx = s.tx := rfl

@[simp] theorem rxReset_held (s : State) : (rxReset s).held = s.held := rfl

@[simp] theorem rxReset_handlerReturning (s : State) : (rxReset s).handlerReturning = s.handlerReturning := rfl

@[simp] theorem rxReset_reg (s : State) : (rxReset s).reg = s.reg := rfl

@[simp] theorem rxReset_nodeId (s : State) : (rxReset s).nodeId = s.nodeId := rfl

@[simp] theorem rxReset_tp (s : State) : (rxReset s).tp = s.tp := rfl

@[simp] theorem rxReset_params (s : State) : (rxReset s).params = s.params := rfl

@[simp] theorem rxReset_hostReq (s : State) : (rxReset s).hostReq = s.hostReq := rfl

@[simp] theorem rxReset_sched (s : State) : (rxReset s).sched = s.sched := rfl

@[simp] theorem rxReset_events (s : State) : (rxReset s).events = s.events := rfl

@[simp] theorem rxReset_result (s : State) : (rxReset s).result = s.result := rfl

/-! ### rxError -/

@[simp] theorem rxError_rx (o : RxOutcome) (s : State) : (rxError o s).rx = rxResetRegs s.rx := rfl

@[simp] theorem rxError_pollActive (o : RxOutcome) (s : State) : (rxError o s).pollActive = s.pollActive := rfl

@[simp] theorem rxError_pollEnding (o : RxOutcome) (s : State) : (rxError o s).pollEnding = s.pollEnding := rfl

@[simp] theorem rxError_disp (o : RxOutcome) (s : State) : (rxError o s).disp = s.disp := rfl

@[simp] theorem rxError_active (o : RxOutcome) (s : State) : (rxError o s).active = s.active := rfl

@[simp] theorem rxError_tx (o : RxOutcome) (s : State) : (rxError o s).tx = s.tx := rfl

@[simp] theorem rxError_held (o : RxOutcome) (s : State) : (rxError o s).held = s.held := rfl

@[simp] theorem rxError_handlerReturning (o : RxOutcome) (s : State) : (rxError o s).handlerReturning = s.handlerReturning := rfl

@[simp] theorem rxError_reg (o : RxOutcome) (s : State) : (rxError o s).reg = s.reg := rfl

@[simp] theorem rxError_nodeId (o : RxOutcome) (s : State) : (rxError o s).nodeId = s.nodeId := rfl

@[simp] theorem rxError_tp (o : RxOutcome) (s : State) : (rxError o s).tp = s.tp := rfl

@[simp] theorem rxError_params (o : RxOutcome) (s : State) : (rxError o s).params = s.params := rfl

@[simp] theorem rxError_hostReq (o : RxOutcome) (s : State) : (rxError o s).hostReq = s.hostReq := rfl

@[simp] theorem rxError_sched (o : RxOutcome) (s : State) : (rxError o s).sched = s.sched := rfl

@[simp] theorem rxError_events (o : RxOutcome) (s : State) : (rxError o s).events = s.events ++ [.outcome o] := rfl

@[simp] theorem rxError_result (o : RxOutcome) (s : State) : (rxError o s).result = s.result := rfl

/-! ### dispatch -/

@[simp] theorem dispatch_rx (id : Byte) (h : Handler) (payload : List Byte) (s : State) : (dispatch id h payload s).rx = s.rx := rfl

@[simp] theorem dispatch_pollActive (id : Byte) (h : Handler) (payload : List Byte) (s : State) : (dispatch id h payload s).pollActive = s.pollActive := rfl

@[simp] theorem dispatch_pollEnding (id : Byte) (h : Handler) (payload : List Byte) (s : State) : (dispatch id h payload s).pollEnding = s.pollEnding := rfl

@[simp] theorem dispatch_disp (id : Byte) (h : Handler) (payload : List Byte) (s : State) :
    (dispatch id h payload s).disp = some { id := id, handler := h, payload := payload } := rfl

@[simp] theorem dispatch_active (id : Byte) (h : Handler) (payload : List Byte) (s : State) : (dispatch id h payload s).active = s.active := rfl

@[simp] theorem dispatch_tx (id : Byte) (h : Handler) (payload : List Byte) (s : State) : (dispatch id h payload s).tx = s.tx := rfl

@[simp] theorem dispatch_held (id : Byte) (h : Handler) (payload : List Byte) (s : State) : (dispatch id h payload s).held = s.held := rfl

@[simp] theorem dispatch_handlerReturning (id : Byte) (h : Handler) (payload : List Byte) (s : State) : (dispatch id h payload s).handlerReturning = s.handlerReturning := rfl

@[simp] theorem dispatch_reg (id : Byte) (h : Handler) (payload : List Byte) (s : State) : (dispatch id h payload s).reg = s.reg := rfl

@[simp] theorem dispatch_nodeId (id : Byte) (h : Handler) (payload : List Byte) (s : State) : (dispatch id h payload s).nodeId = s.nodeId := rfl

@[simp] theorem dispatch_tp (id : Byte) (h : Handler) (payload : List Byte) (s : State) : (dispatch id h payload s).tp = s.tp := rfl

@[simp] theorem dispatch_params (id : Byte) (h : Handler) (payload : List Byte) (s : State) : (dispatch id h payload s).params = s.params := rfl

@[simp] theorem dispatch_hostReq (id : Byte) (h : Handler) (payload : List Byte) (s : State) : (dispatch id h payload s).hostReq = s.hostReq := rfl

@[simp] theorem dispatch_sched (id : Byte) (h : Handler) (payload : List Byte) (s : State) : (dispatch id h payload s).sched = s.sched := rfl

@[simp] theorem dispatch_events (id : Byte) (h : Handler) (payload : List Byte) (s : State) : (dispatch id h payload s).events = s.events ++ [.dispatch id h payload] := rfl

@[simp] theorem dispatch_result (id : Byte) (h : Handler) (payload : List Byte) (s : State) : (dispatch id h payload s).result = s.result := rfl

/-! ### handlerReturned -/

@[simp] theorem handlerReturned_rx (s : State) : (handlerReturned s).rx = s.rx := rfl

@[simp] theorem handlerReturned_pollActive (s : State) : (handlerReturned s).pollActive = s.pollActive := rfl

@[simp] theorem handlerReturned_pollEnding (s : State) : (handlerReturned s).pollEnding = true := rfl

@[simp] theorem handlerReturned_disp (s : State) : (handlerReturned s).disp = none := rfl

@[simp] theorem handlerReturned_active (s : State) : (handlerReturned s).active = none := rfl

@[simp] theorem handlerReturned_tx (s : State) : (handlerReturned s).tx = s.tx := rfl

@[simp] theorem handlerReturned_held (s : State) : (handlerReturned s).held = s.held := rfl

@[simp] theorem handlerReturned_handlerReturning (s : State) : (handlerReturned s).handlerReturning = false := rfl

@[simp] theorem handlerReturned_reg (s : State) : (handlerReturned s).reg = s.reg := rfl

@[simp] theorem handlerReturned_nodeId (s : State) : (handlerReturned s).nodeId = s.nodeId := rfl

@[simp] theorem handlerReturned_tp (s : State) : (handlerReturned s).tp = s.tp := rfl

@[simp] theorem handlerReturned_params (s : State) : (handlerReturned s).params = s.params := rfl

@[simp] theorem handlerReturned_hostReq (s : State) : (handlerReturned s).hostReq = s.hostReq := rfl

@[simp] theorem handlerReturned_sched (s : State) : (handlerReturned s).sched = s.sched := rfl

@[simp] theorem handlerReturned_events (s : State) : (handlerReturned s).events = s.events ++ [.handlerReturn] := rfl

@[simp] theorem handlerReturned_result (s : State) : (handlerReturned s).result = s.result := rfl

/-! ### pollEnd -/

@[simp] theorem pollEnd_rx (s : State) : (pollEnd s).rx = s.rx := rfl

@[simp] theorem pollEnd_pollActive (s : State) : (pollEnd s).pollActive = false := rfl

@[simp] theorem pollEnd_pollEnding (s : State) : (pollEnd s).pollEnding = false := rfl

@[simp] theorem pollEnd_disp (s : State) : (pollEnd s).disp = s.disp := rfl

@[simp] theorem pollEnd_active (s : State) : (pollEnd s).active = s.active := rfl

@[simp] theorem pollEnd_tx (s : State) : (pollEnd s).tx = s.tx := rfl

@[simp] theorem pollEnd_held (s : State) : (pollEnd s).held = s.held := rfl

@[simp] theorem pollEnd_handlerReturning (s : State) : (pollEnd s).handlerReturning = s.handlerReturning := rfl

@[simp] theorem pollEnd_reg (s : State) : (pollEnd s).reg = s.reg := rfl

@[simp] theorem pollEnd_nodeId (s : State) : (pollEnd s).nodeId = s.nodeId := rfl

@[simp] theorem pollEnd_tp (s : State) : (pollEnd s).tp = s.tp := rfl

@[simp] theorem pollEnd_params (s : State) : (pollEnd s).params = s.params := rfl

@[simp] theorem pollEnd_hostReq (s : State) : (pollEnd s).hostReq = s.hostReq := rfl

@[simp] theorem pollEnd_sched (s : State) : (pollEnd s).sched = s.sched := rfl

@[simp] theorem pollEnd_events (s : State) : (pollEnd s).events = s.events ++ [.pollEnd] := rfl

@[simp] theorem pollEnd_result (s : State) : (pollEnd s).result = s.result := rfl

/-! ### scanEnd -/

@[simp] theorem scanEnd_rx (s : State) : (scanEnd s).rx = s.rx := rfl

@[simp] theorem scanEnd_pollActive (s : State) : (scanEnd s).pollActive = s.pollActive := rfl

@[simp] theorem scanEnd_pollEnding (s : State) : (scanEnd s).pollEnding = true := rfl

@[simp] theorem scanEnd_disp (s : State) : (scanEnd s).disp = s.disp := rfl

@[simp] theorem scanEnd_active (s : State) : (scanEnd s).active = s.active := rfl

@[simp] theorem scanEnd_tx (s : State) : (scanEnd s).tx = s.tx := rfl

@[simp] theorem scanEnd_held (s : State) : (scanEnd s).held = s.held := rfl

@[simp] theorem scanEnd_handlerReturning (s : State) : (scanEnd s).handlerReturning = s.handlerReturning := rfl

@[simp] theorem scanEnd_reg (s : State) : (scanEnd s).reg = s.reg := rfl

@[simp] theorem scanEnd_nodeId (s : State) : (scanEnd s).nodeId = s.nodeId := rfl

@[simp] theorem scanEnd_tp (s : State) : (scanEnd s).tp = s.tp := rfl

@[simp] theorem scanEnd_params (s : State) : (scanEnd s).params = s.params := rfl

@[simp] theorem scanEnd_hostReq (s : State) : (scanEnd s).hostReq = s.hostReq := rfl

@[simp] theorem scanEnd_sched (s : State) : (scanEnd s).sched = s.sched := rfl

@[simp] theorem scanEnd_events (s : State) : (scanEnd s).events = s.events := rfl

@[simp] theorem scanEnd_result (s : State) : (scanEnd s).result = s.result := rfl

/-! ### applyReset -/

@[simp] theorem applyReset_rx (n : Byte) (s : State) : (applyReset n s).rx = RxRegs.reset := rfl

@[simp] theorem applyReset_pollActive (n : Byte) (s : State) : (applyReset n s).pollActive = false := rfl

@[simp] theorem applyReset_pollEnding (n : Byte) (s : State) : (applyReset n s).pollEnding = false := rfl

@[simp] theorem applyReset_disp (n : Byte) (s : State) : (applyReset n s).disp = none := rfl

@[simp] theorem applyReset_active (n : Byte) (s : State) : (applyReset n s).active = none := rfl

@[simp] theorem applyReset_tx (n : Byte) (s : State) : (applyReset n s).tx = TxRegs.reset := rfl

@[simp] theorem applyReset_held (n : Byte) (s : State) : (applyReset n s).held = [] := rfl

@[simp] theorem applyReset_handlerReturning (n : Byte) (s : State) : (applyReset n s).handlerReturning = false := rfl

@[simp] theorem applyReset_reg (n : Byte) (s : State) : (applyReset n s).reg = registryReset := rfl

@[simp] theorem applyReset_nodeId (n : Byte) (s : State) : (applyReset n s).nodeId = n := rfl

@[simp] theorem applyReset_tp (n : Byte) (s : State) : (applyReset n s).tp = s.tp := rfl

@[simp] theorem applyReset_params (n : Byte) (s : State) : (applyReset n s).params = s.params := rfl

@[simp] theorem applyReset_hostReq (n : Byte) (s : State) : (applyReset n s).hostReq = s.hostReq := rfl

@[simp] theorem applyReset_sched (n : Byte) (s : State) : (applyReset n s).sched = s.sched := rfl

@[simp] theorem applyReset_events (n : Byte) (s : State) : (applyReset n s).events = s.events := rfl

@[simp] theorem applyReset_result (n : Byte) (s : State) : (applyReset n s).result = s.result := rfl

/-! ### byteArrives -/

@[simp] theorem byteArrives_rx (b : Byte) (s : State) : (byteArrives b s).rx = s.rx := rfl

@[simp] theorem byteArrives_pollActive (b : Byte) (s : State) : (byteArrives b s).pollActive = s.pollActive := rfl

@[simp] theorem byteArrives_pollEnding (b : Byte) (s : State) : (byteArrives b s).pollEnding = s.pollEnding := rfl

@[simp] theorem byteArrives_disp (b : Byte) (s : State) : (byteArrives b s).disp = s.disp := rfl

@[simp] theorem byteArrives_active (b : Byte) (s : State) : (byteArrives b s).active = s.active := rfl

@[simp] theorem byteArrives_tx (b : Byte) (s : State) : (byteArrives b s).tx = s.tx := rfl

@[simp] theorem byteArrives_held (b : Byte) (s : State) : (byteArrives b s).held = s.held := rfl

@[simp] theorem byteArrives_handlerReturning (b : Byte) (s : State) : (byteArrives b s).handlerReturning = s.handlerReturning := rfl

@[simp] theorem byteArrives_reg (b : Byte) (s : State) : (byteArrives b s).reg = s.reg := rfl

@[simp] theorem byteArrives_nodeId (b : Byte) (s : State) : (byteArrives b s).nodeId = s.nodeId := rfl

@[simp] theorem byteArrives_tp (b : Byte) (s : State) : (byteArrives b s).tp = { s.tp with rxq := s.tp.rxq ++ [b] } := rfl

@[simp] theorem byteArrives_params (b : Byte) (s : State) : (byteArrives b s).params = s.params := rfl

@[simp] theorem byteArrives_hostReq (b : Byte) (s : State) : (byteArrives b s).hostReq = s.hostReq := rfl

@[simp] theorem byteArrives_sched (b : Byte) (s : State) : (byteArrives b s).sched = s.sched := rfl

@[simp] theorem byteArrives_events (b : Byte) (s : State) : (byteArrives b s).events = s.events := rfl

@[simp] theorem byteArrives_result (b : Byte) (s : State) : (byteArrives b s).result = s.result := rfl

/-! ### byteSent -/

@[simp] theorem byteSent_rx (s : State) : (byteSent s).rx = s.rx := rfl

@[simp] theorem byteSent_pollActive (s : State) : (byteSent s).pollActive = s.pollActive := rfl

@[simp] theorem byteSent_pollEnding (s : State) : (byteSent s).pollEnding = s.pollEnding := rfl

@[simp] theorem byteSent_disp (s : State) : (byteSent s).disp = s.disp := rfl

@[simp] theorem byteSent_active (s : State) : (byteSent s).active = s.active := rfl

@[simp] theorem byteSent_tx (s : State) : (byteSent s).tx = s.tx := rfl

@[simp] theorem byteSent_held (s : State) : (byteSent s).held = s.held := rfl

@[simp] theorem byteSent_handlerReturning (s : State) : (byteSent s).handlerReturning = s.handlerReturning := rfl

@[simp] theorem byteSent_reg (s : State) : (byteSent s).reg = s.reg := rfl

@[simp] theorem byteSent_nodeId (s : State) : (byteSent s).nodeId = s.nodeId := rfl

@[simp] theorem byteSent_tp (s : State) : (byteSent s).tp = { s.tp with txq := s.tp.txq.tail } := rfl

@[simp] theorem byteSent_params (s : State) : (byteSent s).params = s.params := rfl

@[simp] theorem byteSent_hostReq (s : State) : (byteSent s).hostReq = s.hostReq := rfl

@[simp] theorem byteSent_sched (s : State) : (byteSent s).sched = s.sched := rfl

@[simp] theorem byteSent_events (s : State) : (byteSent s).events = s.events := rfl

@[simp] theorem byteSent_result (s : State) : (byteSent s).result = s.result := rfl

/-! ### bytesLost -/

@[simp] theorem bytesLost_rx (n : Nat) (s : State) : (bytesLost n s).rx = s.rx := rfl

@[simp] theorem bytesLost_pollActive (n : Nat) (s : State) : (bytesLost n s).pollActive = s.pollActive := rfl

@[simp] theorem bytesLost_pollEnding (n : Nat) (s : State) : (bytesLost n s).pollEnding = s.pollEnding := rfl

@[simp] theorem bytesLost_disp (n : Nat) (s : State) : (bytesLost n s).disp = s.disp := rfl

@[simp] theorem bytesLost_active (n : Nat) (s : State) : (bytesLost n s).active = s.active := rfl

@[simp] theorem bytesLost_tx (n : Nat) (s : State) : (bytesLost n s).tx = s.tx := rfl

@[simp] theorem bytesLost_held (n : Nat) (s : State) : (bytesLost n s).held = s.held := rfl

@[simp] theorem bytesLost_handlerReturning (n : Nat) (s : State) : (bytesLost n s).handlerReturning = s.handlerReturning := rfl

@[simp] theorem bytesLost_reg (n : Nat) (s : State) : (bytesLost n s).reg = s.reg := rfl

@[simp] theorem bytesLost_nodeId (n : Nat) (s : State) : (bytesLost n s).nodeId = s.nodeId := rfl

@[simp] theorem bytesLost_tp (n : Nat) (s : State) :
    (bytesLost n s).tp = { s.tp with txq := s.tp.txq.take (s.tp.txq.length - n) } := rfl

@[simp] theorem bytesLost_params (n : Nat) (s : State) : (bytesLost n s).params = s.params := rfl

@[simp] theorem bytesLost_hostReq (n : Nat) (s : State) : (bytesLost n s).hostReq = s.hostReq := rfl

@[simp] theorem bytesLost_sched (n : Nat) (s : State) : (bytesLost n s).sched = s.sched := rfl

@[simp] theorem bytesLost_events (n : Nat) (s : State) : (bytesLost n s).events = s.events := rfl

@[simp] theorem bytesLost_result (n : Nat) (s : State) : (bytesLost n s).result = s.result := rfl

/-! ### writeErrorFlag -/

@[simp] theorem writeErrorFlag_rx (v : Bool) (s : State) : (writeErrorFlag v s).rx = s.rx := rfl

@[simp] theorem writeErrorFlag_pollActive (v : Bool) (s : State) : (writeErrorFlag v s).pollActive = s.pollActive := rfl

@[simp] theorem writeErrorFlag_pollEnding (v : Bool) (s : State) : (writeErrorFlag v s).pollEnding = s.pollEnding := rfl

@[simp] theorem writeErrorFlag_disp (v : Bool) (s : State) : (writeErrorFlag v s).disp = s.disp := rfl

@[simp] theorem writeErrorFlag_active (v : Bool) (s : State) : (writeErrorFlag v s).active = s.active := rfl

@[simp] theorem writeErrorFlag_tx (v : Bool) (s : State) : (writeErrorFlag v s).tx = s.tx := rfl

@[simp] theorem writeErrorFlag_held (v : Bool) (s : State) : (writeErrorFlag v s).held = s.held := rfl

@[simp] theorem writeErrorFlag_handlerReturning (v : Bool) (s : State) : (writeErrorFlag v s).handlerReturning = s.handlerReturning := rfl

@[simp] theorem writeErrorFlag_reg (v : Bool) (s : State) : (writeErrorFlag v s).reg = s.reg := rfl

@[simp] theorem writeErrorFlag_nodeId (v : Bool) (s : State) : (writeErrorFlag v s).nodeId = s.nodeId := rfl

@[simp] theorem writeErrorFlag_tp (v : Bool) (s : State) : (writeErrorFlag v s).tp = { s.tp with werr := v } := rfl

@[simp] theorem writeErrorFlag_params (v : Bool) (s : State) : (writeErrorFlag v s).params = s.params := rfl

@[simp] theorem writeErrorFlag_hostReq (v : Bool) (s : State) : (writeErrorFlag v s).hostReq = s.hostReq := rfl

@[simp] theorem writeErrorFlag_sched (v : Bool) (s : State) : (writeErrorFlag v s).sched = s.sched := rfl

@[simp] theorem writeErrorFlag_events (v : Bool) (s : State) : (writeErrorFlag v s).events = s.events := rfl

@[simp] theorem writeErrorFlag_result (v : Bool) (s : State) : (writeErrorFlag v s).result = s.result := rfl

/-! ### rxResetRegs -/

@[simp] theorem rxResetRegs_state (r : RxRegs) : (rxResetRegs r).state = .awaitSync := rfl

@[simp] theorem rxResetRegs_cnt (r : RxRegs) : (rxResetRegs r).cnt = 0 := rfl

@[simp] theorem rxResetRegs_len (r : RxRegs) : (rxResetRegs r).len = none := rfl

@[simp] theorem rxResetRegs_handler (r : RxRegs) : (rxResetRegs r).handler = none := rfl

@[simp] theorem rxResetRegs_chk (r : RxRegs) : (rxResetRegs r).chk = 0#8 := rfl

@[simp] theorem rxResetRegs_buf (r : RxRegs) : (rxResetRegs r).buf = r.buf := rfl

/-! ### flushStep -/

/-- The flush is done when `TXQ` is empty (R42). -/
theorem flushStep_empty {s : State} (h : s.tp.txq = []) :
    flushStep s = logEvent .flushDone { s with tx := { s.tx with phase := .idle } } := by
  simp [flushStep, h]

/-- Until then nothing changes (R150). -/
theorem flushStep_waits {s : State} (h : s.tp.txq ≠ []) : flushStep s = s := by
  unfold flushStep
  split
  · rename_i e
    exact absurd e h
  · rfl

end Sys2Proof.Machine
end

