-- ==== Sys2Proof/Laws/Ops.lean ====
section
/-! SUPPORT. Laws/Ops.lean: for each shared operation, once, everything it can do. -/

namespace Sys2Proof.Machine

/-! ## The transport -/

/-- `TransportRead()` takes the oldest byte and nothing else (R40). -/
theorem transportRead_eq_next {s : State} {b : Byte} {t : State} (h : transportRead s = .next (b, t)) :
    s.tp.rxq = b :: t.tp.rxq ∧ t = logEvent (.read b) { s with tp := { s.tp with rxq := t.tp.rxq } } := by
  unfold transportRead at h
  split at h
  · cases h
  · rename_i c q hq
    cases h
    exact ⟨hq, rfl⟩

theorem transportRead_cons {s : State} {b : Byte} {q : List Byte} (h : s.tp.rxq = b :: q) :
    transportRead s = .next (b, logEvent (.read b) { s with tp := { s.tp with rxq := q } }) := by
  simp [transportRead, h]

/-! ## The framer -/

theorem rxStore_in_range {i : Nat} (b : Byte) (s : State) (h : i < 64) :
    rxStore i b s = .next { s with rx := { s.rx with buf := tableSet s.rx.buf i b } } := by
  simp [rxStore, h]

theorem rxStore_eq_next {i : Nat} {b : Byte} {s t : State} (h : rxStore i b s = .next t) :
    i < 64 ∧ t = { s with rx := { s.rx with buf := tableSet s.rx.buf i b } } := by
  obtain ⟨m, hm, h'⟩ := andThen_eq_next h
  cases h'
  obtain ⟨hi, rfl⟩ := bufStore_eq_next hm
  exact ⟨hi, rfl⟩

/-- A byte step that goes on was selected, and is either the overrun of R96 or the step itself. -/
theorem byteStep_eq_next {st : RxState} {s t : State} {k : Ans State} (h : byteStep st s k = .next t) :
    s.rx.state = st ∧ ((64 ≤ s.rx.cnt ∧ t = rxError .bufferOverrun s) ∨ (s.rx.cnt < 64 ∧ k = .next t)) := by
  unfold byteStep at h
  split at h
  · rename_i hs
    split at h
    · rename_i ho
      cases h
      exact ⟨hs, Or.inl ⟨ho, rfl⟩⟩
    · rename_i ho
      exact ⟨hs, Or.inr ⟨Nat.lt_of_not_le ho, h⟩⟩
  · cases h

theorem byteStep_selected {st : RxState} {s : State} (k : Ans State) (hs : s.rx.state = st) (hc : s.rx.cnt < 64) :
    byteStep st s k = k := by
  have ho : ¬ overrunTest s.rx.cnt := Nat.not_le_of_lt hc
  simp [byteStep, hs, ho]

/-- `complete(b)` that goes on (R92): a match dispatches the frame that was read out of `rx_buf`, a mismatch is an
error. -/
theorem complete_eq_next {b : Byte} {s t : State} (h : complete b s = .next t) :
    (s.rx.chk = b ∧ ∃ id payload, bufLoad s.rx.cnt s.rx.buf 2 = .next id ∧
        bufSlice s.rx.cnt s.rx.buf 3 (readLen s - 4) = .next payload ∧
        t = dispatch id (readHandler s) payload (logOutcome (.dispatched id (readHandler s) payload) (rxReset s))) ∨
      (s.rx.chk ≠ b ∧ t = rxError (.checksumMismatch s.rx.chk b) s) := by
  unfold complete at h
  split at h
  · rename_i hb
    obtain ⟨id, h1, h⟩ := andThen_eq_next h
    obtain ⟨payload, h2, h⟩ := andThen_eq_next h
    cases h
    exact Or.inl ⟨hb, id, payload, h1, h2, rfl⟩
  · rename_i hb
    cases h
    exact Or.inr ⟨hb, rfl⟩

/-! ## The serializer -/

/-- What appending a sequence of bytes leaves (R106 lines 2 to 5). -/
structure Appended (bs : List Byte) (t t' : TxRegs) : Prop where
  cnt : t'.cnt = t.cnt + bs.length
  chk : t'.chk = t.chk ^^^ xorSum bs
  phase : t'.phase = t.phase
  get : ∀ j, j < bs.length → tableGet t'.buf (t.cnt + j) = bs[j]?
  rest : SameOutside t.cnt (t.cnt + bs.length) t.buf t'.buf
  wf : Memory.wf t.buf = true → Memory.wf t'.buf = true

theorem txAppendAll_spec (bs : List Byte) (t : TxRegs) (h : t.cnt + bs.length ≤ 64) :
    ∃ t', txAppendAll bs t = .next t' ∧ Appended bs t t' := by
  induction bs generalizing t with
  | nil =>
    refine ⟨t, rfl, ?_⟩
    constructor <;> simp [SameOutside]
  | cons b bs ih =>
    simp only [List.length_cons] at h
    have hi : t.cnt < 64 := by omega
    obtain ⟨t', ht', ha⟩ := ih
      { t with buf := tableSet t.buf t.cnt b, chk := chkAcc t.chk b, cnt := t.cnt + 1 } (by simp; omega)
    refine ⟨t', by simp [txAppendAll, txAppend, hi, ht'], ?_⟩
    have hrest := ha.rest
    simp only [SameOutside] at hrest
    refine ⟨by rw [ha.cnt]; simp; omega, by rw [ha.chk]; simp [chkAcc, BitVec.xor_assoc], ha.phase, ?_, ?_, ?_⟩
    · intro j hj
      cases j with
      | zero =>
        rw [Nat.add_zero, hrest t.cnt (Or.inl (by omega))]
        simp
      | succ j =>
        have := ha.get j (by simpa using hj)
        simp only at this
        rw [show t.cnt + (j + 1) = t.cnt + 1 + j by omega, this]
        simp
    · intro i hi'
      rw [List.length_cons] at hi'
      rw [hrest i (by omega), tableGet_set_other _ _ (by omega)]
    · intro hw
      exact ha.wf (tableSet_wf b hw (Nat.zero_le _) hi)

theorem txBuild_spec (id : Byte) (payload : List Byte) (t : TxRegs) (h : payload.length ≤ 60) :
    ∃ t', txBuild id payload t = .next t' ∧ t'.cnt = payload.length + 4 ∧
      t'.chk = xorSum (encodeFrame id payload).dropLast ∧ t'.phase = t.phase ∧
      bufSlice t'.cnt t'.buf 0 t'.cnt = .next (encodeFrame id payload) ∧
      SameOutside 0 (payload.length + 4) t.buf t'.buf ∧ (Memory.wf t.buf = true → Memory.wf t'.buf = true) := by
  obtain ⟨f, hf⟩ : ∃ f, f = [Config.sync, BitVec.ofNat 8 (payload.length + Config.overhead), id] ++ payload := ⟨_, rfl⟩
  have hl : f.length = payload.length + 3 := by rw [hf]; simp
  have he : encodeFrame id payload = f ++ [xorSum f] := by rw [hf]; rfl
  obtain ⟨t1, ht1, ha⟩ := txAppendAll_spec f { t with cnt := 0, chk := chkClr } (by simp [hl]; omega)
  have hc : t1.cnt = payload.length + 3 := by rw [ha.cnt]; simp [hl]
  have hk : t1.chk = xorSum f := by rw [ha.chk]; simp [chkClr]
  have hget : ∀ j, j < f.length → tableGet t1.buf j = f[j]? := by
    intro j hj
    have := ha.get j hj
    simpa using this
  have h64 : t1.cnt < 64 := by omega
  refine ⟨{ t1 with buf := tableSet t1.buf t1.cnt t1.chk, cnt := t1.cnt + 1 }, ?_, ?_, ?_, ha.phase, ?_, ?_, ?_⟩
  · rw [txBuild, ← hf, ht1]
    simp [txAppendChecksum, h64]
  · simp [hc]
  · simp [he, hk]
  · rw [bufSlice_eq_next]
    refine ⟨by simp [hc], fun j hj => ⟨by simp at hj; omega, by simpa using hj, ?_⟩⟩
    rw [Nat.zero_add, he, hk]
    simp only at hj ⊢
    by_cases hj' : j = t1.cnt
    · subst hj'
      rw [tableGet_set_same, List.getElem?_append_right (by omega)]
      simp [hl, hc]
    · rw [tableGet_set_other _ _ hj', hget j (by omega), List.getElem?_append_left (by omega)]
  · intro i hi
    have := ha.rest i (by simp [hl]; omega)
    simp only at this ⊢
    rw [tableGet_set_other _ _ (by omega), this]
  · intro hw
    exact tableSet_wf _ (ha.wf hw) (Nat.zero_le _) h64

/-- R106 lines 1 to 8: the frame is built, handed to the transport and its flush begun; nothing else changes. -/
theorem serialise_spec (id : Byte) (payload : List Byte) (s : State) (h : payload.length ≤ 60) :
    ∃ t, serialise id payload s = .next t ∧ FrameSent (encodeFrame id payload) s t ∧ OnlyTx s t ∧
      t.active = s.active ∧ (Memory.wf s.tx.buf = true → Memory.wf t.tx.buf = true) := by
  obtain ⟨t', h1, hc, hk, -, hs, hr, hw⟩ := txBuild_spec id payload s.tx h
  refine ⟨transportWrite (encodeFrame id payload) { s with tx := { t' with phase := .flushing } }, ?_, ?_, ?_, rfl, hw⟩
  · simp [serialise, h1, hs]
  · exact ⟨rfl, rfl, rfl, by simp [hc], hk, hs, by rw [encodeFrame_length]; exact hr⟩
  · constructor <;> rfl

/-- `send` is held while a flush is in progress (R110). -/
theorem sendOp_held {s : State} (id : Byte) (payload : List Byte) (h : s.tx.phase = .flushing) :
    sendOp id payload s = .next { s with held := s.held ++ [.send id payload] } := by
  simp [sendOp, h]

/-- `send` with more than 60 payload bytes only reports the refusal (R107). -/
theorem sendOp_refused {s : State} (id : Byte) {payload : List Byte} (h : s.tx.phase = .idle)
    (hp : 60 < payload.length) : sendOp id payload s = .next (logEvent (.sendRefused .payloadTooLong) s) := by
  have : payloadTooLong payload := hp
  simp [sendOp, h, this]

/-- Otherwise the frame is sent (R106). -/
theorem sendOp_sent {s : State} (id : Byte) {payload : List Byte} (h : s.tx.phase = .idle)
    (hp : payload.length ≤ 60) : sendOp id payload s = serialise id payload s := by
  have : ¬ payloadTooLong payload := Nat.not_lt_of_le hp
  simp [sendOp, h, this]

/-- `send` always goes on, in one of three ways (R106, R107, R110). -/
theorem sendOp_cases (id : Byte) (payload : List Byte) (s : State) :
    ∃ t, sendOp id payload s = .next t ∧
      ((s.tx.phase = .flushing ∧ t = { s with held := s.held ++ [.send id payload] }) ∨
        (s.tx.phase = .idle ∧ 60 < payload.length ∧ t = logEvent (.sendRefused .payloadTooLong) s) ∨
        (s.tx.phase = .idle ∧ payload.length ≤ 60 ∧ FrameSent (encodeFrame id payload) s t ∧ OnlyTx s t ∧
          t.active = s.active ∧ (Memory.wf s.tx.buf = true → Memory.wf t.tx.buf = true))) := by
  cases hph : s.tx.phase with
  | flushing => exact ⟨_, sendOp_held id payload hph, Or.inl ⟨rfl, rfl⟩⟩
  | idle =>
    by_cases hp : 60 < payload.length
    · exact ⟨_, sendOp_refused id hph hp, Or.inr (Or.inl ⟨rfl, hp, rfl⟩)⟩
    · obtain ⟨t, ht, h⟩ := serialise_spec id payload s (Nat.le_of_not_lt hp)
      exact ⟨t, by rw [sendOp_sent id hph (Nat.le_of_not_lt hp), ht], Or.inr (Or.inr ⟨rfl, Nat.le_of_not_lt hp, h⟩)⟩

end Sys2Proof.Machine
end

