-- ==== Sys2Proof/Laws/Framer.lean ====
section
/-! SUPPORT. Laws/Framer.lean: the byte steps in closed form, one lemma for each branch, and what any byte step that goes
on is. -/

namespace Sys2Proof.Machine

variable {b : Byte} {s t : State}

theorem execRxSync_accept (hs : s.rx.state = .awaitSync) (hc : s.rx.cnt < 64) (hb : syncTest b) :
    execRxSync b s = .next (logOutcome .consumed
      { s with rx := { s.rx with
          buf := tableSet s.rx.buf 0 b, chk := chkAcc s.rx.chk b, cnt := 1, state := .awaitLength } }) := by
  rw [execRxSync, byteStep_selected _ hs hc, if_pos hb, rxStore_in_range b s (by omega)]
  rfl

theorem execRxSync_reject (hs : s.rx.state = .awaitSync) (hc : s.rx.cnt < 64) (hb : ¬ syncTest b) :
    execRxSync b s = .next (logOutcome (.syncError b) s) := by
  rw [execRxSync, byteStep_selected _ hs hc, if_neg hb]

theorem execRxLen_accept (hs : s.rx.state = .awaitLength) (hc : s.rx.cnt < 64) (hb : lengthTest b) :
    execRxLen b s = .next (logOutcome .consumed
      { s with rx := { s.rx with
          buf := tableSet s.rx.buf 1 b, chk := chkAcc s.rx.chk b, len := some b.toNat, cnt := 2,
          state := .awaitIdentifier } }) := by
  rw [execRxLen, byteStep_selected _ hs hc, if_pos hb, rxStore_in_range b s (by omega)]
  rfl

theorem execRxLen_reject (hs : s.rx.state = .awaitLength) (hc : s.rx.cnt < 64) (hb : ¬ lengthTest b) :
    execRxLen b s = .next (rxError (.lengthError b) s) := by
  rw [execRxLen, byteStep_selected _ hs hc, if_neg hb]

theorem execRxId_accept {h : Handler} (hs : s.rx.state = .awaitIdentifier) (hc : s.rx.cnt < 64)
    (hb : resolve s.reg b = some h) :
    execRxId b s = .next (logOutcome .consumed
      { s with rx := { s.rx with
          buf := tableSet s.rx.buf 2 b, chk := chkAcc s.rx.chk b, handler := some h, cnt := 3,
          state := .accumulatePayload } }) := by
  rw [execRxId, byteStep_selected _ hs hc, hb, rxStore_in_range b s (by omega)]
  rfl

theorem execRxId_reject (hs : s.rx.state = .awaitIdentifier) (hc : s.rx.cnt < 64) (hb : resolve s.reg b = none) :
    execRxId b s = .next (rxError (.unknownIdentifier b) s) := by
  rw [execRxId, byteStep_selected _ hs hc, hb]

theorem execRxAcc_payload (hs : s.rx.state = .accumulatePayload) (hc : s.rx.cnt < 64)
    (hb : s.rx.cnt + 1 < readLen s) :
    execRxAcc b s = .next (logOutcome .consumed
      { s with rx := { s.rx with
          buf := tableSet s.rx.buf s.rx.cnt b, chk := chkAcc s.rx.chk b, cnt := s.rx.cnt + 1 } }) := by
  rw [execRxAcc, byteStep_selected _ hs hc, rxStore_in_range b s hc]
  exact if_pos hb

theorem execRxAcc_complete (hs : s.rx.state = .accumulatePayload) (hc : s.rx.cnt < 64)
    (hb : ¬ s.rx.cnt + 1 < readLen s) :
    execRxAcc b s = complete b { s with rx := { s.rx with buf := tableSet s.rx.buf s.rx.cnt b } } := by
  rw [execRxAcc, byteStep_selected _ hs hc, rxStore_in_range b s hc]
  exact if_neg hb

/-- Whatever value a read of `rx_len` gives, valid or not, a byte that does not match `rx_chk` stops nothing (U5). -/
theorem execRxAcc_goes_on (hs : s.rx.state = .accumulatePayload) (hc : s.rx.cnt < 64) (hb : s.rx.chk ≠ b) :
    ∃ t, execRxAcc b s = .next t := by
  by_cases hl : s.rx.cnt + 1 < readLen s
  · exact ⟨_, execRxAcc_payload hs hc hl⟩
  · exact ⟨_, (execRxAcc_complete hs hc hl).trans (if_neg hb)⟩

/-- The overrun of R96, for whichever byte step is selected. -/
theorem byteStep_overrun (hc : 64 ≤ s.rx.cnt) :
    exec (decodeByteStep (rxStateCode s.rx.state) b) s = .next (rxError .bufferOverrun s) := by
  have ho : overrunTest s.rx.cnt := hc
  cases hs : s.rx.state <;>
    simp [rxStateCode, decodeByteStep, exec, execRxSync, execRxLen, execRxId, execRxAcc, byteStep, hs, ho]

/-- The selected byte step, by the state that selects it (R87). -/
theorem selected_byteStep (s : State) (b : Byte) :
    exec (decodeByteStep (rxStateCode s.rx.state) b) s =
      match s.rx.state with
      | .awaitSync => execRxSync b s
      | .awaitLength => execRxLen b s
      | .awaitIdentifier => execRxId b s
      | .accumulatePayload => execRxAcc b s := by
  cases s.rx.state <;> rfl

/-- Everything a selected byte step can do when it goes on (R94): an acceptance, an error, a dispatch, or the overrun of
R96. -/
theorem selected_byteStep_cases (h : exec (decodeByteStep (rxStateCode s.rx.state) b) s = .next t) :
    (64 ≤ s.rx.cnt ∧ t = rxError .bufferOverrun s) ∨
    (s.rx.cnt < 64 ∧
      ((s.rx.state = .awaitSync ∧
          ((syncTest b ∧ t = logOutcome .consumed { s with rx := { s.rx with
              buf := tableSet s.rx.buf 0 b, chk := chkAcc s.rx.chk b, cnt := 1, state := .awaitLength } }) ∨
            (¬ syncTest b ∧ t = logOutcome (.syncError b) s))) ∨
        (s.rx.state = .awaitLength ∧
          ((lengthTest b ∧ t = logOutcome .consumed { s with rx := { s.rx with
              buf := tableSet s.rx.buf 1 b, chk := chkAcc s.rx.chk b, len := some b.toNat, cnt := 2,
              state := .awaitIdentifier } }) ∨
            (¬ lengthTest b ∧ t = rxError (.lengthError b) s))) ∨
        (s.rx.state = .awaitIdentifier ∧
          ((∃ hd, resolve s.reg b = some hd ∧ t = logOutcome .consumed { s with rx := { s.rx with
              buf := tableSet s.rx.buf 2 b, chk := chkAcc s.rx.chk b, handler := some hd, cnt := 3,
              state := .accumulatePayload } }) ∨
            (resolve s.reg b = none ∧ t = rxError (.unknownIdentifier b) s))) ∨
        (s.rx.state = .accumulatePayload ∧
          ((s.rx.cnt + 1 < readLen s ∧ t = logOutcome .consumed { s with rx := { s.rx with
              buf := tableSet s.rx.buf s.rx.cnt b, chk := chkAcc s.rx.chk b, cnt := s.rx.cnt + 1 } }) ∨
            (¬ s.rx.cnt + 1 < readLen s ∧
              complete b { s with rx := { s.rx with buf := tableSet s.rx.buf s.rx.cnt b } } = .next t))))) := by
  by_cases hc : 64 ≤ s.rx.cnt
  · rw [byteStep_overrun hc] at h
    cases h
    exact Or.inl ⟨hc, rfl⟩
  · have hc' : s.rx.cnt < 64 := by omega
    refine Or.inr ⟨hc', ?_⟩
    rw [selected_byteStep] at h
    cases hs : s.rx.state with
    | awaitSync =>
      simp only [hs] at h
      refine Or.inl ⟨rfl, ?_⟩
      by_cases hb : syncTest b
      · rw [execRxSync_accept hs hc' hb] at h
        cases h
        exact Or.inl ⟨hb, rfl⟩
      · rw [execRxSync_reject hs hc' hb] at h
        cases h
        exact Or.inr ⟨hb, rfl⟩
    | awaitLength =>
      simp only [hs] at h
      refine Or.inr (Or.inl ⟨rfl, ?_⟩)
      by_cases hb : lengthTest b
      · rw [execRxLen_accept hs hc' hb] at h
        cases h
        exact Or.inl ⟨hb, rfl⟩
      · rw [execRxLen_reject hs hc' hb] at h
        cases h
        exact Or.inr ⟨hb, rfl⟩
    | awaitIdentifier =>
      simp only [hs] at h
      refine Or.inr (Or.inr (Or.inl ⟨rfl, ?_⟩))
      cases hb : resolve s.reg b with
      | some hd =>
        rw [execRxId_accept hs hc' hb] at h
        cases h
        exact Or.inl ⟨hd, rfl, rfl⟩
      | none =>
        rw [execRxId_reject hs hc' hb] at h
        cases h
        exact Or.inr ⟨rfl, rfl⟩
    | accumulatePayload =>
      simp only [hs] at h
      refine Or.inr (Or.inr (Or.inr ⟨rfl, ?_⟩))
      by_cases hb : s.rx.cnt + 1 < readLen s
      · rw [execRxAcc_payload hs hc' hb] at h
        cases h
        exact Or.inl ⟨hb, rfl⟩
      · rw [execRxAcc_complete hs hc' hb] at h
        exact Or.inr ⟨hb, h⟩

end Sys2Proof.Machine
end

