-- ==== Sys2Proof/Laws/PerInstr.lean ====
section
/-! SUPPORT. Laws/PerInstr.lean: a fact about each instruction as syntax: the size of its encoding (R60, R75). -/

namespace Sys2Proof.Laws.EncodedSize

/-- The bytes an instruction takes in a stream; a byte step takes the one byte it is given, a host operation none. -/
def size : Encoded → Nat
  | .frame bytes => bytes.length
  | .byteStep _ _ => 1
  | .request _ => 0

/-- A well-formed instruction that stands in a stream takes at most 64 bytes, and at least 4 if it is a frame. -/
def Statement (i : Instr) : Prop :=
  i.wf = true → size (encode i) ≤ 64 ∧ (i.frame?.isSome = true → 4 ≤ size (encode i))

/-- The size of a frame (R64). -/
theorem frame_size {n : Nat} {id : Byte} {payload : List Byte} (h : payload.length = n) (hn : n ≤ 60) :
    size (.frame (encodeFrame id payload)) ≤ 64 ∧ 4 ≤ size (.frame (encodeFrame id payload)) := by
  simp [size, encodeFrame, h]
  omega

theorem cmd (id : Byte) (payload : List Byte) : Statement (.cmd id payload) := by
  intro h
  simp [Instr.wf] at h
  exact ⟨(frame_size rfl h.2).1, fun _ => (frame_size rfl h.2).2⟩

theorem hsReq (rest : List Byte) : Statement (.hsReq rest) := by
  intro h
  have hl : (Config.hsRequest :: rest).length ≤ 60 := by simpa [Instr.wf] using h
  exact ⟨(frame_size rfl hl).1, fun _ => (frame_size rfl hl).2⟩

theorem hsConfirm (candidate : Byte) (rest : List Byte) : Statement (.hsConfirm candidate rest) := by
  intro h
  simp [Instr.wf] at h
  have hl : (candidate :: rest).length ≤ 60 := by simpa using h.2
  exact ⟨(frame_size rfl hl).1, fun _ => (frame_size rfl hl).2⟩

theorem hsEmpty : Statement .hsEmpty := fun _ =>
  ⟨(frame_size rfl (by decide)).1, fun _ => (frame_size rfl (by decide)).2⟩

theorem hsId (node : Byte) : Statement (.hsId node) := fun _ =>
  ⟨(frame_size (n := 1) rfl (by decide)).1, fun _ => (frame_size (n := 1) rfl (by decide)).2⟩

theorem hsOk : Statement .hsOk := fun _ =>
  ⟨(frame_size (n := 1) rfl (by decide)).1, fun _ => (frame_size (n := 1) rfl (by decide)).2⟩

theorem hsErr : Statement .hsErr := fun _ =>
  ⟨(frame_size (n := 1) rfl (by decide)).1, fun _ => (frame_size (n := 1) rfl (by decide)).2⟩

theorem rxSync (b : Byte) : Statement (.rxSync b) := fun _ => ⟨by simp [encode, size], by simp [Instr.frame?]⟩

theorem rxLen (b : Byte) : Statement (.rxLen b) := fun _ => ⟨by simp [encode, size], by simp [Instr.frame?]⟩

theorem rxId (b : Byte) : Statement (.rxId b) := fun _ => ⟨by simp [encode, size], by simp [Instr.frame?]⟩

theorem rxAcc (b : Byte) : Statement (.rxAcc b) := fun _ => ⟨by simp [encode, size], by simp [Instr.frame?]⟩

theorem poll : Statement .poll := fun _ => ⟨by simp [encode, size], by simp [Instr.frame?]⟩

theorem send (id : Byte) (payload : List Byte) : Statement (.send id payload) :=
  fun _ => ⟨Nat.zero_le _, by simp [Instr.frame?]⟩

theorem register (id : Byte) (h : Handler) : Statement (.register id h) :=
  fun _ => ⟨Nat.zero_le _, by simp [Instr.frame?]⟩

theorem getNodeId : Statement .getNodeId := fun _ => ⟨by simp [encode, size], by simp [Instr.frame?]⟩

end Sys2Proof.Laws.EncodedSize
end

