-- ==== Sys2Proof/Laws/Step.lean ====
section
/-! SUPPORT. Laws/Step.lean: what a step can do, said once: every step that goes on is one of the effects below. Proofs
about all steps are case analyses of `StepEffect`. -/

namespace Sys2Proof.Machine

/-! ## Host operations -/

/-- What a host operation does when it goes on. -/
inductive OpEffect (s : State) : State → Prop where
  /-- R98 line 0 under `persist`. -/
  | pollPersist (ha : s.pollActive = false) (hp : s.params.rxPartialPolicy = .persist) :
      OpEffect s (logEvent .pollStart { s with pollActive := true, pollEnding := false })
  /-- R98 line 0 under `drop_at_poll_start` (R101). -/
  | pollDrop (ha : s.pollActive = false) (hp : s.params.rxPartialPolicy = .dropAtPollStart) :
      OpEffect s (logEvent .pollStart (rxReset { s with pollActive := true, pollEnding := false }))
  /-- R106, R107, R110. -/
  | send (id : Byte) (payload : List Byte) (t : State) (h : sendOp id payload s = .next t) : OpEffect s t
  /-- R114. -/
  | locked (id : Byte) (h : Handler) (hl : id = Config.hsId ∧ s.params.hsLocked = true) :
      OpEffect s (logEvent (.register id h false) s)
  /-- R113. -/
  | bound (id : Byte) (h : Handler) (hl : ¬ (id = Config.hsId ∧ s.params.hsLocked = true)) :
      OpEffect s (logEvent (.register id h true) { s with reg := bindHandler s.reg id h })
  /-- R117. -/
  | nodeId : OpEffect s { s with result := some s.nodeId }

theorem execOp_effect {op : HostOp} {s t : State} (h : exec op.instr s = .next t) : OpEffect s t := by
  cases op with
  | poll =>
    cases ha : s.pollActive with
    | true => simp [HostOp.instr, exec, execPoll, ha] at h
    | false =>
      cases hp : s.params.rxPartialPolicy with
      | persist =>
        simp only [HostOp.instr, exec, execPoll, ha, hp] at h
        cases h
        exact .pollPersist ha hp
      | dropAtPollStart =>
        simp only [HostOp.instr, exec, execPoll, ha, hp] at h
        cases h
        exact .pollDrop ha hp
  | send id payload => exact .send id payload t h
  | register id hd =>
    simp only [HostOp.instr, exec, execRegister] at h
    split at h
    · rename_i hl
      cases h
      exact .locked id hd hl
    · rename_i hl
      cases h
      exact .bound id hd hl
  | getNodeId =>
    cases h
    exact .nodeId

/-! ## Received frames -/

/-- The four meanings of a received frame are one operation (R97). -/
theorem exec_frameInstr (id : Byte) (payload : List Byte) (s : State) :
    exec (frameInstr id payload) s = invokeHandler id payload s := by
  unfold frameInstr
  split
  · rename_i hid
    subst hid
    split
    · rfl
    · split
      · rename_i hp
        subst hp
        rfl
      · rfl
  · rfl

/-- What a received frame does when it goes on: its handler has been invoked, and the handshake responder has sent at
most one reply (R97, R119, R122). -/
theorem invokeHandler_eq_next {id : Byte} {payload : List Byte} {s t : State}
    (h : invokeHandler id payload s = .next t) :
    ∃ d, s.disp = some d ∧ s.active = none ∧ d.id = id ∧ d.payload = payload ∧
      (t = { s with active := some d } ∨
        (d.handler = .hs ∧ ∃ r, sendOp Config.hsId [r] { s with active := some d } = .next t)) := by
  unfold invokeHandler at h
  split at h
  · rename_i d hd ha
    split at h
    · rename_i hid
      refine ⟨d, hd, ha, hid.1, hid.2, ?_⟩
      split at h
      · rename_i hh
        unfold respond at h
        split at h
        · cases h
          exact Or.inl rfl
        · exact Or.inr ⟨hh, _, h⟩
      · cases h
        exact Or.inl rfl
    · cases h
  · cases h

/-! ## The block's own step -/

/-- The byte step of a poll: the oldest byte has been read (R98 line 2). -/
abbrev afterRead (b : Byte) (q : List Byte) (s : State) : State :=
  logEvent (.read b) { s with tp := { s.tp with rxq := q } }

/-- What the block's own step does when it goes on, with what holds when it does (`execOp_effect` says what the held
operation does). -/
inductive BlockEffect (s : State) : State → Prop where
  | nothing : BlockEffect s s
  | flushed (hp : s.tx.phase = .flushing) (hq : s.tp.txq = []) :
      BlockEffect s (logEvent .flushDone { s with tx := { s.tx with phase := .idle } })
  | held (hp : s.tx.phase = .idle) (op : HostOp) (rest : List HostOp) (hh : s.held = op :: rest) (t : State)
      (h : exec op.instr { s with held := rest } = .next t) : BlockEffect s t
  | frame (hn : ¬ sendInProgress s) (d : Dispatch) (hd : s.disp = some d) (ha : s.active = none) (t : State)
      (h : invokeHandler d.id d.payload s = .next t) : BlockEffect s t
  | returned (hn : ¬ sendInProgress s) (d a : Dispatch) (hd : s.disp = some d) (ha : s.active = some a)
      (hh : a.handler = .hs ∨ s.handlerReturning = true) : BlockEffect s (handlerReturned s)
  | pollEnd (hn : ¬ sendInProgress s) (hd : s.disp = none) (ha : s.pollActive = true) (he : s.pollEnding = true) :
      BlockEffect s (pollEnd s)
  | scanEnd (hn : ¬ sendInProgress s) (hd : s.disp = none) (ha : s.pollActive = true) (he : s.pollEnding = false)
      (hq : s.tp.rxq = []) : BlockEffect s (scanEnd s)
  | byte (hn : ¬ sendInProgress s) (hd : s.disp = none) (ha : s.pollActive = true) (he : s.pollEnding = false) (b : Byte)
      (q : List Byte) (hq : s.tp.rxq = b :: q) (t : State)
      (h : exec (decodeByteStep (rxStateCode (afterRead b q s).rx.state) b) (afterRead b q s) = .next t) :
      BlockEffect s t
  | request (hn : ¬ sendInProgress s) (hd : s.disp = none) (ha : s.pollActive = false) (op : HostOp)
      (rest : List HostOp) (hr : s.hostReq = op :: rest) (t : State) (h : OpEffect { s with hostReq := rest } t) :
      BlockEffect s t

theorem blockStep_effect {s t : State} (h : blockStep s = .next t) : BlockEffect s t := by
  unfold blockStep at h
  cases hp : s.tx.phase with
  | flushing =>
    rw [show turn s = .flush by simp [turn, hp]] at h
    by_cases hq : s.tp.txq = []
    · rw [flushStep_empty hq] at h
      cases h
      exact .flushed hp hq
    · rw [flushStep_waits hq] at h
      cases h
      exact .nothing
  | idle =>
    cases hh : s.held with
    | cons op rest =>
      rw [show turn s = .heldOp op rest by simp [turn, hp, hh]] at h
      exact .held hp op rest hh t h
    | nil =>
      have hn : ¬ sendInProgress s := by simp [sendInProgress, hp, hh]
      cases hd : s.disp with
      | some d =>
        cases ha : s.active with
        | none =>
          rw [show turn s = .frame (frameInstr d.id d.payload) by simp [turn, hp, hh, hd, ha]] at h
          exact .frame hn d hd ha t ((exec_frameInstr d.id d.payload s).symm.trans h)
        | some a =>
          cases hha : a.handler with
          | hs =>
            rw [show turn s = .responderReturn by simp [turn, hp, hh, hd, ha, hha]] at h
            cases h
            exact .returned hn d a hd ha (Or.inl hha)
          | user n =>
            cases hr : s.handlerReturning with
            | false =>
              rw [show turn s = .handlerRuns by simp [turn, hp, hh, hd, ha, hha, hr]] at h
              cases h
              exact .nothing
            | true =>
              rw [show turn s = .handlerReturns by simp [turn, hp, hh, hd, ha, hha, hr]] at h
              cases h
              exact .returned hn d a hd ha (Or.inr hr)
      | none =>
        cases ha : s.pollActive with
        | true =>
          cases he : s.pollEnding with
          | true =>
            rw [show turn s = .pollEnd by simp [turn, hp, hh, hd, ha, he]] at h
            cases h
            exact .pollEnd hn hd ha he
          | false =>
            cases hq : s.tp.rxq with
            | nil =>
              rw [show turn s = .scanEnd by simp [turn, hp, hh, hd, ha, he, hq]] at h
              cases h
              exact .scanEnd hn hd ha he hq
            | cons b q =>
              rw [show turn s = .byteStep (decodeByteStep (rxStateCode s.rx.state) b) by
                simp [turn, hp, hh, hd, ha, he, hq]] at h
              simp only [transportRead_cons hq, andThen_next] at h
              exact .byte hn hd ha he b q hq t h
        | false =>
          cases hr : s.hostReq with
          | nil =>
            rw [show turn s = .idle by simp [turn, hp, hh, hd, ha, hr]] at h
            cases h
            exact .nothing
          | cons op rest =>
            rw [show turn s = .request op rest by simp [turn, hp, hh, hd, ha, hr]] at h
            exact .request hn hd ha op rest hr t (execOp_effect h)

/-! ## A step -/

/-- A user handler runs and has not returned. -/
theorem runningHandler_eq_some {s : State} {n : Nat} (h : runningHandler s = some n) :
    ∃ a, s.active = some a ∧ a.handler = .user n ∧ s.handlerReturning = false := by
  unfold runningHandler at h
  split at h
  · rename_i a ha
    split at h
    · rename_i m hm
      split at h
      · cases h
      · rename_i hr
        cases h
        exact ⟨a, ha, hm, by simpa using hr⟩
    · cases h
  · cases h

/-- What one step does when it goes on; `s` is the state with the move taken off the schedule. -/
inductive StepEffect (s : State) : Option Move → State → Prop where
  | block (m : Option Move) (t : State) (h : BlockEffect s t) (hm : m = none ∨ m = some .block) : StepEffect s m t
  | arrive (b : Byte) : StepEffect s (some (.arrive b)) (byteArrives b s)
  | sent : StepEffect s (some .sent) (byteSent s)
  | lost (n : Nat) : StepEffect s (some (.lost n)) (bytesLost n s)
  | writeError (v : Bool) : StepEffect s (some (.writeError v)) (writeErrorFlag v s)
  | rst (n : Byte) : StepEffect s (some (.rst n)) (applyReset n s)
  | invoked (op : HostOp) : StepEffect s (some (.request op)) { s with hostReq := s.hostReq ++ [op] }
  | called (op : HostOp) (a : Dispatch) (n : Nat) (ha : s.active = some a) (hn : a.handler = .user n)
      (hi : ¬ sendInProgress s) (t : State) (h : OpEffect s t) : StepEffect s (some (.handlerCall op)) t
  | calledInSend (op : HostOp) (a : Dispatch) (n : Nat) (ha : s.active = some a) (hn : a.handler = .user n)
      (hi : sendInProgress s) : StepEffect s (some (.handlerCall op)) { s with held := s.held ++ [op] }
  | returned (a : Dispatch) (n : Nat) (ha : s.active = some a) (hn : a.handler = .user n) (hi : ¬ sendInProgress s) :
      StepEffect s (some .handlerReturn) (handlerReturned s)
  | returnedInSend (a : Dispatch) (n : Nat) (ha : s.active = some a) (hn : a.handler = .user n)
      (hi : sendInProgress s) : StepEffect s (some .handlerReturn) { s with handlerReturning := true }

theorem runMove_effect {m : Move} {s t : State} (h : runMove m s = .next t) : StepEffect s (some m) t := by
  cases m with
  | block => exact .block _ t (blockStep_effect h) (Or.inr rfl)
  | arrive b =>
    cases h
    exact .arrive b
  | sent =>
    cases h
    exact .sent
  | lost n =>
    cases h
    exact .lost n
  | writeError v =>
    cases h
    exact .writeError v
  | rst n =>
    cases h
    exact .rst n
  | request op =>
    simp only [runMove, hostInvokes] at h
    split at h
    · rename_i hp
      obtain ⟨rfl, ha⟩ := hp
      simp [HostOp.instr, exec, execPoll, ha] at h
    · cases h
      exact .invoked op
  | handlerCall op =>
    simp only [runMove, handlerInvokes] at h
    split at h
    · rename_i n hn
      obtain ⟨a, ha, hu, -⟩ := runningHandler_eq_some hn
      split at h
      · rename_i hi
        cases h
        exact .calledInSend op a n ha hu hi
      · rename_i hi
        exact .called op a n ha hu hi t (execOp_effect h)
    · cases h
  | handlerReturn =>
    simp only [runMove, handlerReturns] at h
    split at h
    · rename_i n hn
      obtain ⟨a, ha, hu, -⟩ := runningHandler_eq_some hn
      cases h
      split
      · rename_i hi
        exact .returnedInSend a n ha hu hi
      · rename_i hi
        exact .returned a n ha hu hi
    · cases h

/-- Everything a step can do: the effect of the move at the head of the schedule, or of the block's own step when there is
none, on the state with that move taken off. -/
theorem step_effect {s t : State} (h : step s = .next t) :
    StepEffect { s with sched := s.sched.tail } s.sched.head? t := by
  unfold step at h
  unfold nextMove at h
  cases hs : s.sched with
  | nil =>
    simp only [hs] at h
    refine .block _ t ?_ (Or.inl rfl)
    have e : ({ s with sched := ([] : List Move).tail } : State) = s := by
      rw [show ([] : List Move).tail = s.sched by simp [hs]]
    rw [e]
    exact blockStep_effect h
  | cons m ms =>
    simp only [hs] at h
    exact runMove_effect h

end Sys2Proof.Machine
end

