-- ==== Sys2Proof/Machine/Ports.lean ====
section
/-! DEFINITION. Machine/Ports.lean: the signals of the binding of R36. No rule depends on the binding and no timing is
attached to it (R36, R156). A level is read off a state. A pulse, with the data that goes with it, is read off one step,
from `s` to `t`: it is there when that step has appended its event (log 12). The inputs that carry an
operation with its operands are the moves of Machine/State.lean: `rst` and `node_id_in`; `poll_req`; `send_req` with
`send_id`, `send_len` and `send_payload`; `reg_req` with `reg_id` and `reg_handler`; `disp_done`. `clk` has no counterpart
but the step (R156). The inputs from the transport are read off its queues and its flag. -/

namespace Sys2Proof.Machine

/-! ## Levels -/

/-- `rx_valid`: `available() > 0`. -/
def portRxValid (s : State) : Bool := decide (0 < transportAvailable s)

/-- `rx_data`: the byte `read()` would return. -/
def portRxData (s : State) : Option Byte := s.tp.rxq.head?

/-- `rx_ready`: the block's next own step performs `read()`; so it is high only while `poll_active` and `disp = none`. -/
def portRxReady (s : State) : Bool :=
  match turn s with
  | .byteStep _ => true
  | .flush => false
  | .heldOp _ _ => false
  | .frame _ => false
  | .responderReturn => false
  | .handlerRuns => false
  | .handlerReturns => false
  | .pollEnd => false
  | .scanEnd => false
  | .request _ _ => false
  | .idle => false

/-- `disp_valid`. -/
def portDispValid (s : State) : Bool := s.disp.isSome

/-- `disp_id`. -/
def portDispId (s : State) : Option Byte := s.disp.map (·.id)

/-- `disp_handler`. -/
def portDispHandler (s : State) : Option Handler := s.disp.map (·.handler)

/-- `disp_len`: 6 bits. -/
def portDispLen (s : State) : Option (BitVec 6) := s.disp.map fun d => BitVec.ofNat 6 d.payload.length

/-- `disp_payload`: index 0 first; there is no value at an index of `disp_len` or more. -/
def portDispPayload (s : State) (i : Nat) : Option Byte := s.disp.bind fun d => d.payload[i]?

/-- `tx_ready`: the transport takes the bytes of a `write`. DEDUCED (log 12) from R41 (a write appends its bytes to `TXQ`
in order and is buffered) and R42 (nothing but the flush can wait): it is high in every state, so a write never stalls.
What a transport does not keep of a write is a loss (U6; log 16). -/
def portTxReady (_ : State) : Bool := true

/-- `tx_flush_req`: `flush()` is requested. -/
def portTxFlushReq (s : State) : Bool := decide (s.tx.phase = .flushing)

/-- `tx_flush_done`: the transport has sent everything (R42). -/
def portTxFlushDone (s : State) : Bool := s.tp.txq.isEmpty

/-- `tx_error_in`, and its copy `tx_error` for the host (R24, R43). -/
def portTxError (s : State) : Bool := transportWriteError s

/-- `node_id`: always valid (R117). -/
def portNodeId (s : State) : Byte := s.nodeId

/-! ## Pulses -/

/-- The events one step has appended. -/
def stepEvents (s t : State) : List Event := t.events.drop s.events.length

/-- `poll_done`: the poll has ended. -/
def portPollDone (s t : State) : Bool := decide (.pollEnd ∈ stepEvents s t)

/-- `send_refused`, with `send_done` (R107). -/
def portSendRefused (s t : State) : Bool := decide (.sendRefused .payloadTooLong ∈ stepEvents s t)

/-- `send_done`: the flush is done, or the send was refused. -/
def portSendDone (s t : State) : Bool := decide (.flushDone ∈ stepEvents s t) || portSendRefused s t

/-- The bytes a list of events writes. -/
def writtenBytes : List Event → Option (List Byte)
  | [] => none
  | .write f :: _ => some f
  | _ :: es => writtenBytes es

/-- `tx_valid`: the step writes a frame. With `tx_ready` high every byte of it is transferred (R36). -/
def portTxValid (s t : State) : Bool := (writtenBytes (stepEvents s t)).isSome

/-- `tx_data`: byte `i` of the frame the step writes, in order (R109: one at a time or all in one call). -/
def portTxData (s t : State) (i : Nat) : Option Byte := (writtenBytes (stepEvents s t)).bind fun f => f[i]?

/-- The registration a list of events reports. -/
def registered : List Event → Option Bool
  | [] => none
  | .register _ _ ok :: _ => some ok
  | _ :: es => registered es

/-- `reg_ok`, in a step that performs a registration (R113, R114). -/
def portRegOk (s t : State) : Option Bool := registered (stepEvents s t)

/-- The outcome label a list of events records. -/
def outcomeOf : List Event → Option RxOutcome
  | [] => none
  | .outcome o :: _ => some o
  | _ :: es => outcomeOf es

/-- `diag_valid`: the step has taken a byte step (R128). -/
def portDiagValid (s t : State) : Bool := (outcomeOf (stepEvents s t)).isSome

/-- `diag_kind`: the code of the outcome label (R128). -/
def portDiagKind (s t : State) : Option (BitVec 3) := (outcomeOf (stepEvents s t)).map outcomeCode

/-- The byte on `diag_byte`: the offending byte, where the label carries one (R128). DESIGN CHOICE (log 12): the spec
does not say which of the two bytes of a checksum mismatch is shown, nor whether the identifier of a dispatch is; the
model shows the received byte for the first and no value for the second. -/
def diagByte : RxOutcome → Option Byte
  | .syncError b => some b
  | .lengthError b => some b
  | .unknownIdentifier b => some b
  | .checksumMismatch _ b => some b
  | .dispatched _ _ _ => none
  | .consumed => none
  | .bufferOverrun => none

/-- `diag_byte` (R36, R128; log 12). -/
def portDiagByte (s t : State) : Option Byte := (outcomeOf (stepEvents s t)).bind diagByte

end Sys2Proof.Machine
end

