-- ==== Sys2Proof/Tests/Slice0.lean ====
section
/-! SUPPORT. Tests/Slice0.lean: what the checks refuse, words of the spec and what they decode to, one step of each
instruction, and a witness for the hypotheses of each statement.

Expected values are the spec's: "V1" to "V61" are the vectors of spec/95_test_vectors.md, "R88" and so on the examples
of the rules. -/

namespace Sys2Proof.Tests

open Sys2Proof.Machine

/-! ## States to test on -/

/-- The reset state with `NODE_ID = 0x01`, as the vectors have it. -/
def base : State := { State.reset with nodeId := 0x01, tp := { rxq := [], txq := [], werr := false } }

/-- `base` with a user handler registered for 0x10. -/
def bound : State := { base with reg := [(0x10, .user 16), (0xFF, .hs)] }

/-- A block that scans these bytes. -/
def scan (bytes : List Byte) (s : State) : State := { s with pollActive := true, tp := { s.tp with rxq := bytes } }

/-- The RX registers after `AA`, after `AA 05`, after `AA 05 FF`, and after `AA 05 FF 00` (V1). -/
def rx1 : RxRegs :=
  { state := .awaitLength, cnt := 1, len := none, handler := none, chk := 0xAA, buf := [(0, 0xAA)] }
def rx2 : RxRegs :=
  { state := .awaitIdentifier, cnt := 2, len := some 5, handler := none, chk := 0xAF, buf := [(0, 0xAA), (1, 0x05)] }
def rx3 : RxRegs :=
  { state := .accumulatePayload, cnt := 3, len := some 5, handler := some .hs, chk := 0x50,
    buf := [(0, 0xAA), (1, 0x05), (2, 0xFF)] }
def rx4 : RxRegs :=
  { state := .accumulatePayload, cnt := 4, len := some 5, handler := some .hs, chk := 0x50,
    buf := [(0, 0xAA), (1, 0x05), (2, 0xFF), (3, 0x00)] }

/-- A frame handed off in a poll, its handler not yet invoked. -/
def handed (id : Byte) (h : Handler) (payload : List Byte) : State :=
  { scan [] bound with disp := some { id := id, handler := h, payload := payload } }

/-- `handed` with the handler running. -/
def running (id : Byte) (h : Handler) (payload : List Byte) : State :=
  { handed id h payload with active := (handed id h payload).disp }

/-- A flush in progress. -/
def flushing (txq : List Byte) : State :=
  { base with tx := { base.tx with phase := .flushing }, tp := { base.tp with txq := txq } }

/-- The state an answer goes on with, if it goes on. -/
def next? (a : Ans State) : Option State :=
  match a with
  | .next s => some s
  | .fault _ => none
  | .refused _ => none

/-- The last event of an answer. -/
def lastEvent (a : Ans State) : Option Event := (next? a).bind fun s => s.events.getLast?

/-- The bytes an answer has in `TXQ`. -/
def txqOf (a : Ans State) : Option (List Byte) := (next? a).map fun s => s.tp.txq

/-! ## WellFormed refuses -/

theorem test_wf_cmd_reserved_id : Instr.wf (.cmd 0xFF [0x01]) = false := by decide
theorem test_wf_cmd_too_long : Instr.wf (.cmd 0x10 (List.replicate 61 0x00)) = false := by decide
theorem test_wf_hsReq_too_long : Instr.wf (.hsReq (List.replicate 60 0x00)) = false := by decide
theorem test_wf_hsConfirm_request : Instr.wf (.hsConfirm 0x00 []) = false := by decide
theorem test_wf_hsConfirm_too_long : Instr.wf (.hsConfirm 0x01 (List.replicate 60 0x00)) = false := by decide
theorem test_wf_send_too_long : Instr.wf (.send 0x10 (List.replicate 61 0x00)) = false := by decide
theorem test_wf_longest : Instr.wf (.cmd 0xFE (List.replicate 60 0xAA)) = true := by decide

/-! ## Decoding: words written out from R60, R64, R78 and R79 -/

theorem test_decode_cmd_shortest : decode (.frame [0xAA, 0x04, 0x01, 0xAF]) = .ok (.cmd 0x01 []) [] := by decide  -- V18
theorem test_decode_cmd_no_escape :
    decode (.frame [0xAA, 0x06, 0x00, 0xAA, 0xAA, 0xAC, 0x77]) = .ok (.cmd 0x00 [0xAA, 0xAA]) [0x77] := by decide  -- V22
theorem test_decode_hsReq : decode (.frame [0xAA, 0x05, 0xFF, 0x00, 0x50]) = .ok (.hsReq []) [] := by decide  -- R78
theorem test_decode_hsConfirm :
    decode (.frame [0xAA, 0x05, 0xFF, 0x02, 0x52]) = .ok (.hsConfirm 0x02 []) [] := by decide  -- V5
theorem test_decode_hsEmpty : decode (.frame [0xAA, 0x04, 0xFF, 0x51]) = .ok .hsEmpty [] := by decide  -- R78
theorem test_decode_hsOk_is_a_confirmation :
    decode (.frame [0xAA, 0x05, 0xFF, 0xAA, 0xFA]) = .ok (.hsConfirm 0xAA []) [] := by decide  -- R69
theorem test_encode_hsId : encode (.hsId 0x01) = .frame [0xAA, 0x05, 0xFF, 0x01, 0x51] := by decide  -- V1
theorem test_encode_hsOk : encode .hsOk = .frame [0xAA, 0x05, 0xFF, 0xAA, 0xFA] := by decide  -- R78
theorem test_encode_hsErr : encode .hsErr = .frame [0xAA, 0x05, 0xFF, 0xFF, 0xAF] := by decide  -- R78
theorem test_decode_byte_steps :
    decode (.byteStep 0b00 0x13) = .ok (.rxSync 0x13) [] ∧ decode (.byteStep 0b01 0x05) = .ok (.rxLen 0x05) [] ∧
      decode (.byteStep 0b10 0x7E) = .ok (.rxId 0x7E) [] ∧ decode (.byteStep 0b11 0x50) = .ok (.rxAcc 0x50) [] := by
  decide  -- R12
theorem test_decode_requests :
    decode (.request .poll) = .ok .poll [] ∧ decode (.request (.send 0x7E [0x00])) = .ok (.send 0x7E [0x00]) [] ∧
      decode (.request (.register 0x10 .hs)) = .ok (.register 0x10 .hs) [] ∧
      decode (.request .getNodeId) = .ok .getNodeId [] := by
  decide  -- R79
theorem test_decode_sync_error : decode (.frame [0xAB, 0x07]) = .bad (.syncError 0xAB) := by decide  -- V38
theorem test_decode_length_error_low : decode (.frame [0xAA, 0x03, 0xFF]) = .bad (.lengthError 0x03) := by decide  -- V7
theorem test_decode_length_error_high : decode (.frame [0xAA, 0x41, 0xFF]) = .bad (.lengthError 0x41) := by decide  -- V27
theorem test_decode_checksum_mismatch :
    decode (.frame [0xAA, 0x05, 0xFF, 0x00, 0x5A]) = .bad (.checksumMismatch 0x50 0x5A) := by decide  -- V3
theorem test_decode_truncated : decode (.frame [0xAA, 0x05, 0xFF, 0x00]) = .bad .truncated := by decide  -- R75

/-! ## The opcode table's words -/

theorem test_table_hsEmpty : decodeTableWord 32 0xAA04FF51 = some .hsEmpty := by decide
theorem test_table_hsReq : decodeTableWord 32 0xAA05FF00 = some (.hsReq []) := by decide
theorem test_table_hsOk : decodeTableWord 32 0xAA05FFAA = some (.hsConfirm 0xAA []) := by decide
theorem test_table_length_zero : decodeTableWord 32 0xAA00FF00 = none := by decide
theorem test_table_rxAcc : decodeTableWord 8 3 = some (.rxAcc 0x00) := by decide
theorem test_placed_hsEmpty_runs :
    (next? (step (State.reset.withFetchWord 32 0xAA04FF51))).isSome = true := by decide
theorem test_placed_hsConfirm_runs :
    (next? (step (State.reset.withFetchWord 32 0xAA05FFAA))).isSome = true := by decide
theorem test_placed_rxLen_runs :
    lastEvent (step (State.reset.withFetchWord 8 1)) = some (.outcome (.lengthError 0x00)) := by decide

/-! ## One step of each instruction -/

theorem test_rxSync_accepts :
    (next? (exec (.rxSync 0xAA) base)).map (fun s => (s.rx.state, s.rx.cnt, s.rx.chk)) =
      some (.awaitLength, 1, 0xAA) := by decide  -- V1
theorem test_rxSync_rejects : lastEvent (exec (.rxSync 0x13) base) = some (.outcome (.syncError 0x13)) := by decide  -- R88
theorem test_rxLen_accepts :
    (next? (exec (.rxLen 0x05) { base with rx := rx1 })).map (·.rx) = some rx2 := by decide  -- R89, V1
theorem test_rxLen_rejects :
    (next? (exec (.rxLen 0x41) { base with rx := rx1 })).map (fun s => (s.rx.cnt, s.events)) =
      some (0, [.outcome (.lengthError 0x41)]) := by decide  -- R89
theorem test_rxId_accepts :
    (next? (exec (.rxId 0xFF) { base with rx := rx2 })).map (·.rx) = some rx3 := by decide  -- R90, V1
theorem test_rxId_rejects :
    (next? (exec (.rxId 0x7E) { base with rx := rx2 })).map (fun s => (s.rx.cnt, s.events)) =
      some (0, [.outcome (.unknownIdentifier 0x7E)]) := by decide  -- R90
theorem test_rxAcc_dispatches :
    (next? (exec (.rxAcc 0x50) { base with rx := rx4 })).map (fun s => (s.rx.cnt, s.rx.chk, s.disp)) =
      some (0, 0x00, some { id := 0xFF, handler := .hs, payload := [0x00] }) := by decide  -- R92, V1
theorem test_rxAcc_mismatch :
    (next? (exec (.rxAcc 0xAA) { base with rx := rx4 })).map (fun s => (s.rx.cnt, s.disp, s.events)) =
      some (0, none, [.outcome (.checksumMismatch 0x50 0xAA)]) := by decide  -- V2
theorem test_cmd_runs_its_handler :
    (next? (exec (.cmd 0x10 [0x01]) (handed 0x10 (.user 16) [0x01]))).map (·.active) =
      some (some { id := 0x10, handler := .user 16, payload := [0x01] }) := by decide  -- R97
theorem test_hsReq_reply :
    txqOf (exec (.hsReq [0x09]) (handed 0xFF .hs [0x00, 0x09])) = some [0xAA, 0x05, 0xFF, 0x01, 0x51] := by decide  -- V1, R121
theorem test_hsConfirm_ok :
    txqOf (exec (.hsConfirm 0x01 []) (handed 0xFF .hs [0x01])) = some [0xAA, 0x05, 0xFF, 0xAA, 0xFA] := by decide  -- V4
theorem test_hsConfirm_error :
    txqOf (exec (.hsConfirm 0x02 []) (handed 0xFF .hs [0x02])) = some [0xAA, 0x05, 0xFF, 0xFF, 0xAF] := by decide  -- V5
theorem test_hsEmpty_no_reply :
    txqOf (exec .hsEmpty (handed 0xFF .hs [])) = some [] := by decide  -- R122
theorem test_hsId : txqOf (exec (.hsId 0x01) base) = some [0xAA, 0x05, 0xFF, 0x01, 0x51] := by decide  -- V1
theorem test_hsOk : txqOf (exec .hsOk base) = some [0xAA, 0x05, 0xFF, 0xAA, 0xFA] := by decide  -- R78
theorem test_hsErr : txqOf (exec .hsErr base) = some [0xAA, 0x05, 0xFF, 0xFF, 0xAF] := by decide  -- R78
theorem test_poll_keeps_partial_frame :
    (next? (exec .poll { base with rx := rx3 })).map (fun s => (s.pollActive, s.rx)) = some (true, rx3) := by decide  -- R101
theorem test_poll_drops_partial_frame :
    (next? (exec .poll { base with rx := rx3, params := { hsLocked := true, rxPartialPolicy := .dropAtPollStart } })).map
      (·.rx.cnt) = some 0 := by decide  -- V45
theorem test_send :
    (next? (exec (.send 0x10 [0x01, 0x02, 0x03]) base)).map (fun s => (s.tp.txq, s.tx.cnt)) =
      some ([0xAA, 0x07, 0x10, 0x01, 0x02, 0x03, 0xBD], 7) := by decide  -- V17
theorem test_send_too_long :
    (next? (exec (.send 0x42 (List.replicate 61 0x00)) base)).map (fun s => (s.tp.txq, s.events)) =
      some ([], [.sendRefused .payloadTooLong]) := by decide  -- V21
theorem test_register :
    (next? (exec (.register 0x10 (.user 7)) bound)).map (fun s => resolve s.reg 0x10) = some (some (.user 7)) := by decide  -- V49
theorem test_register_locked :
    (next? (exec (.register 0xFF (.user 7)) base)).map (fun s => (resolve s.reg 0xFF, s.events)) =
      some (some .hs, [.register 0xFF (.user 7) false]) := by decide  -- V50
theorem test_register_waits_for_the_handlers_send :
    (next? (step { running 0x10 (.user 16) [] with
        tx := { base.tx with phase := .flushing }, sched := [.handlerCall (.register 0x20 .hs)] })).map
      (fun s => (resolve s.reg 0x20, s.held)) = some (none, [.register 0x20 .hs]) := by decide  -- R55
theorem test_getNodeId : (next? (exec .getNodeId base)).map (·.result) = some (some 0x01) := by decide  -- V53

/-! ## Witnesses: states and operands that meet the hypotheses of the statements

`witness_X` is for `Obligations.X`, with one clause after another at the ends of their ranges. -/

theorem rxInv_reset : RxInv base.rx :=
  ⟨by decide, by decide, by decide, by decide, by decide, fun h => absurd h (by decide), by decide, by decide,
    ⟨_, rfl, rfl⟩, by decide, by decide⟩

theorem rxInv_rx3 : RxInv rx3 :=
  ⟨by decide, by decide, by decide, by decide, by decide, fun _ => ⟨5, by decide⟩, by decide, by decide,
    ⟨_, rfl, rfl⟩, by decide, by decide⟩

theorem rxInv_rx4 : RxInv rx4 :=
  ⟨by decide, by decide, by decide, by decide, by decide, fun _ => ⟨5, by decide⟩, by decide, by decide,
    ⟨_, rfl, rfl⟩, by decide, by decide⟩

theorem inv_bound : Inv bound :=
  ⟨rxInv_reset, ⟨by decide, by decide, fun h => absurd h (by decide)⟩, ⟨by decide, by decide⟩,
    ⟨by decide, by decide, Or.inl rfl, by decide, by decide, by decide, fun d h => by simp [bound, base, State.reset] at h⟩⟩

theorem inv_scan (bytes : List Byte) : Inv (scan bytes bound) :=
  ⟨rxInv_reset, inv_bound.tx, ⟨inv_bound.reg.wf, inv_bound.reg.locked⟩,
    ⟨fun _ => rfl, fun _ => rfl, Or.inl rfl, fun h => Bool.noConfusion h, fun _ => rfl, fun _ => rfl,
      fun d h => by simp [scan, bound, base, State.reset] at h⟩⟩

theorem inv_handed : Inv (handed 0x10 (.user 16) [0x01]) :=
  ⟨rxInv_reset, ⟨by decide, by decide, fun h => absurd h (by decide)⟩, ⟨by decide, by decide⟩,
    ⟨by decide, by decide, Or.inl rfl, by decide, by decide, by decide, fun d h => by cases h; decide⟩⟩

/-- A responder that has sent its reply and not returned, or has returned with the poll not yet ended. -/
def answered (inHandler : Bool) : State :=
  if inHandler then running 0xFF .hs [0x01] else { scan [] bound with pollEnding := true }

theorem inv_answered (inHandler : Bool) : Inv (answered inHandler) := by
  cases inHandler
  · exact ⟨rxInv_reset, inv_bound.tx, ⟨inv_bound.reg.wf, inv_bound.reg.locked⟩,
      ⟨by decide, by decide, Or.inl rfl, by decide, by decide, by decide, fun d h => nomatch h⟩⟩
  · exact ⟨rxInv_reset, inv_bound.tx, ⟨inv_bound.reg.wf, inv_bound.reg.locked⟩,
      ⟨by decide, by decide, Or.inr rfl, by decide, by decide, by decide, fun d h => by cases h; decide⟩⟩

theorem scanning_scan (bytes : List Byte) : Scanning (scan bytes bound) := ⟨rfl, rfl, rfl, rfl, rfl, rfl⟩

theorem witness_OneChangedByteChangesTheChecksum :
    1 < [0xAA, 0x05, (0xFF : Byte)].length ∧ (0x04 : Byte) ≠ [0xAA, 0x05, (0xFF : Byte)][1] := by decide

theorem witness_FrameFieldsStandWhereTheFormatPutsThem :
    (List.replicate 60 (0xAA : Byte)).length ≤ 60 ∧ 59 < (List.replicate 60 (0xAA : Byte)).length ∧
      ([] : List Byte).length ≤ 60 := by decide

theorem witness_WellFormedFramesAreTheEncodedFrames : wellFormedFrame [0xAA, 0x04, 0xFF, 0x51] = true := by decide

theorem witness_WholeFrameSumsToZero :
    ([0xAA, 0x04, 0xFF, 0x51] : List Byte)[0]? = some 0xAA ∧
      (([0xAA, 0x04, 0xFF, 0x51] : List Byte)[1]?.map BitVec.toNat) = some ([0xAA, 0x04, 0xFF, 0x51] : List Byte).length ∧
      4 ≤ ([0xAA, 0x04, 0xFF, 0x51] : List Byte).length ∧ ([0xAA, 0x04, 0xFF, 0x51] : List Byte).length ≤ 64 := by
  decide

theorem witness_DecodingAnEncodingGivesTheInstruction :
    Instr.wf (.hsConfirm 0x01 (List.replicate 59 0x00)) = true ∧
      Instr.transmittedOnly (.hsConfirm 0x01 (List.replicate 59 0x00)) = false ∧
      (List.replicate 60 (0x00 : Byte)).length ≤ 60 := by decide

theorem witness_AcceptedBytesAreTheEncoding : decodeFrame [0xAA, 0x04, 0x10, 0xBE, 0x13] = .ok (.cmd 0x10 []) [0x13] := by
  decide

theorem witness_TheResetInputRestartsTheBlock :
    { running 0x10 (.user 16) [0x01] with sched := [.rst 0x02, .block] }.sched = .rst 0x02 :: [.block] := rfl

theorem witness_SyncByteStep : base.rx.state = .awaitSync ∧ base.rx.cnt = 0 ∧ (0xAA : Byte) = 0xAA ∧ (0xAB : Byte) ≠ 0xAA := by
  decide

theorem witness_LengthByteStep :
    rx1.state = .awaitLength ∧ rx1.cnt = 1 ∧
      (4 ≤ (0x04 : Byte).toNat ∧ (0x04 : Byte).toNat ≤ 64) ∧ (4 ≤ (0x40 : Byte).toNat ∧ (0x40 : Byte).toNat ≤ 64) ∧
      ¬ (4 ≤ (0x03 : Byte).toNat ∧ (0x03 : Byte).toNat ≤ 64) ∧ ¬ (4 ≤ (0x41 : Byte).toNat ∧ (0x41 : Byte).toNat ≤ 64) := by
  decide

theorem witness_IdentifierByteStep :
    rx2.state = .awaitIdentifier ∧ rx2.cnt = 2 ∧ resolve bound.reg 0x10 = some (.user 16) ∧
      resolve bound.reg 0xFE = none := by decide

theorem witness_AccumulateByteStep :
    (RxInv rx3 ∧ rx3.state = .accumulatePayload ∧ rx3.len = some 5 ∧ inFlight rx3 = .next [0xAA, 0x05, 0xFF] ∧
      rx3.cnt + 1 < 5) ∧
    (RxInv rx4 ∧ rx4.state = .accumulatePayload ∧ rx4.len = some 5 ∧ inFlight rx4 = .next [0xAA, 0x05, 0xFF, 0x00] ∧
      rx4.cnt + 1 = 5 ∧ xorSum [0xAA, 0x05, 0xFF, 0x00] = 0x50 ∧ xorSum [0xAA, 0x05, 0xFF, 0x00] ≠ 0xAA) :=
  ⟨⟨rxInv_rx3, by decide, by decide, rfl, by decide⟩, rxInv_rx4, by decide, by decide, rfl, by decide, by decide, by decide⟩

theorem witness_OverrunResetsTheParser : 64 ≤ ({ base with rx := { rx4 with cnt := 64 } } : State).rx.cnt := by decide

theorem witness_ByteStepsReadOnlyParserAndRegistry :
    RxInv ({ base with rx := rx3 } : State).rx ∧
      ({ scan [0x13] bound with rx := rx3, nodeId := 0x02 } : State).rx = ({ bound with rx := rx3 } : State).rx ∧
      ({ scan [0x13] bound with rx := rx3, nodeId := 0x02 } : State).reg = ({ bound with rx := rx3 } : State).reg :=
  ⟨rxInv_rx3, by decide, by decide⟩

theorem witness_OnlyWholeFramesAreDispatched :
    RxInv ({ base with rx := rx4 } : State).rx ∧ ({ base with rx := rx4 } : State).disp = none ∧
      ∃ t, exec (decodeByteStep (rxStateCode rx4.state) 0x50) { base with rx := rx4 } = .next t ∧
        t.disp = some { id := 0xFF, handler := .hs, payload := [0x00] } :=
  ⟨rxInv_rx4, by decide, _, rfl, rfl⟩

theorem witness_EncodedFramesAreDispatched :
    RxInv bound.rx ∧ bound.rx.state = .awaitSync ∧ resolve bound.reg 0x10 = some (.user 16) ∧
      (List.replicate 60 (0xAA : Byte)).length ≤ 60 := ⟨rxInv_reset, by decide, by decide, by decide⟩

theorem witness_OneCorruptedPayloadByteIsDetected :
    RxInv bound.rx ∧ bound.rx.state = .awaitSync ∧ resolve bound.reg 0x10 = some (.user 16) ∧
      ([0x01, 0x02, 0x03] : List Byte).length ≤ 60 ∧ 2 < ([0x01, 0x02, 0x03] : List Byte).length ∧
      (0x07 : Byte) ≠ ([0x01, 0x02, 0x03] : List Byte)[2] := ⟨rxInv_reset, by decide, by decide, by decide⟩

theorem witness_NoiseIsDiscardedByteByByte :
    base.rx.state = .awaitSync ∧ base.rx.cnt = 0 ∧ ∀ b ∈ ([0x13, 0x37] : List Byte), b ≠ 0xAA := by decide

theorem witness_SendWritesTheEncodedFrame :
    base.tx.phase = .idle ∧ (List.replicate 60 (0xAA : Byte)).length ≤ 60 := by decide

theorem witness_OversizedSendOnlyReportsRefusal :
    base.tx.phase = .idle ∧ 60 < (List.replicate 61 (0x00 : Byte)).length := by decide

theorem witness_SendsAreHeldDuringAFlush :
    (flushing [0xAA]).tx.phase = .flushing ∧ ({ base with held := [.send 0x10 [0x01]] } : State).sched = [] ∧
      ({ base with held := [.send 0x10 [0x01]] } : State).tx.phase = .idle ∧
      ({ base with held := [.send 0x10 [0x01]] } : State).held = .send 0x10 [0x01] :: [] ∧
      decode (.request (.send 0x10 [0x01])) = .ok (.send 0x10 [0x01]) [] := by decide

theorem witness_HeldOperationsRunInOrder :
    (∀ n ms, ({ base with held := [.send 0x10 []] } : State).sched ≠ .rst n :: ms) ∧
      ({ base with held := [.send 0x10 []] } : State).held ≠ [] ∧
      ∃ t, step { base with held := [.send 0x10 []] } = .next t ∧
        .write [0xAA, 0x04, 0x10, 0xBE] ∈ t.events.drop ({ base with held := [.send 0x10 []] } : State).events.length :=
  ⟨fun _ _ h => (nomatch h), by decide, _, rfl, by decide⟩

theorem witness_ReplyRowsTransmitTheirFrames : base.tx.phase = .idle := by decide

theorem witness_FlushEndsOnlyOnAnEmptyQueue :
    ((flushing [0xAA]).sched = [] ∧ (flushing [0xAA]).tx.phase = .flushing ∧ (flushing [0xAA]).tp.txq ≠ []) ∧
    ((flushing []).sched = [] ∧ (flushing []).tx.phase = .flushing ∧ (flushing []).tp.txq = []) ∧
    (∀ n ms, (flushing []).sched ≠ .rst n :: ms) ∧ ∃ t, step (flushing []) = .next t ∧ t.tx.phase = .idle :=
  ⟨by decide, by decide, fun _ _ h => (nomatch h), _, rfl, rfl⟩

theorem witness_FramesAreDeliveredToTheLatchedHandler :
    Instr.transmittedOnly (.hsEmpty) = false ∧ Instr.frame? (.hsEmpty) = some (0xFF, []) ∧
      (handed 0xFF (.user 7) []).disp = some { id := 0xFF, handler := .user 7, payload := [] } ∧
      (handed 0xFF (.user 7) []).active = none ∧
      Instr.frame? (.cmd 0x10 [0x01]) = some (0x10, [0x01]) ∧ Instr.transmittedOnly (.cmd 0x10 [0x01]) = false := by
  decide

theorem witness_AHandlerIsInvokedOnlyOnce :
    Instr.transmittedOnly (.cmd 0x10 [0x01]) = false ∧ Instr.frame? (.cmd 0x10 [0x01]) = some (0x10, [0x01]) ∧
      (running 0x10 (.user 16) [0x01]).active ≠ none ∧
      ∀ h, base.disp ≠ some { id := 0x10, handler := h, payload := [0x01] } :=
  ⟨by decide, by decide, by decide, fun _ h => (nomatch h)⟩

theorem witness_HandshakeQueriesAreAnswered :
    (handed 0xFF .hs [0x00]).disp = some { id := 0xFF, handler := .hs, payload := 0x00 :: [] } ∧
      (handed 0xFF .hs [0x00]).active = none ∧ (handed 0xFF .hs [0x00]).tx.phase = .idle := by decide

theorem witness_TheResponderTransmitsAReplyRow :
    (∀ p : Byte, (handed 0xFF .hs [p]).disp = some { id := 0xFF, handler := .hs, payload := p :: [] } ∧
      (handed 0xFF .hs [p]).active = none) ∧
    (handed 0xFF .hs [0x00]).nodeId = 0x01 ∧ (handed 0xFF .hs [0x01]).nodeId = 0x01 ∧ (0x02 : Byte) ≠ 0x01 :=
  ⟨fun _ => ⟨rfl, rfl⟩, by decide, by decide, by decide⟩

theorem witness_TheResponderAnswersUserFramesToo :
    (handed 0x10 .hs []).disp = some { id := 0x10, handler := .hs, payload := [] } ∧
      (handed 0x10 .hs []).active = none ∧ (handed 0x10 .hs []).tx.phase = .idle ∧
      (handed 0x10 .hs [0x01]).disp = some { id := 0x10, handler := .hs, payload := 0x01 :: [] } ∧
      (handed 0x10 .hs [0x01]).active = none ∧ (handed 0x10 .hs [0x01]).tx.phase = .idle := by decide

theorem witness_EmptyHandshakeGetsNoReply :
    (handed 0xFF .hs []).disp = some { id := 0xFF, handler := .hs, payload := [] } ∧
      (handed 0xFF .hs []).active = none := by decide

/-- A query handed off, with the schedule of `AQueryIsAnsweredBeforeThePollEnds`. -/
def asked : State :=
  { handed 0xFF .hs [0x00] with
    sched := [.block, .sent, .sent, .sent, .sent, .sent, .block, .block, .block] ++ [.arrive 0xAA] }

theorem witness_AQueryIsAnsweredBeforeThePollEnds :
    asked.disp = some { id := 0xFF, handler := .hs, payload := 0x00 :: [] } ∧ asked.active = none ∧
      asked.tx.phase = .idle ∧ asked.held = [] ∧ asked.tp.txq = [] ∧ asked.pollActive = true ∧
      asked.sched = [.block, .sent, .sent, .sent, .sent, .sent, .block, .block, .block] ++ [.arrive 0xAA] := by decide

theorem witness_PollBegins :
    base.pollActive = false ∧ base.params.rxPartialPolicy = .persist ∧
      ({ base with params := { hsLocked := true, rxPartialPolicy := .dropAtPollStart } } : State).pollActive = false ∧
      ({ base with params := { hsLocked := true, rxPartialPolicy := .dropAtPollStart } } :
        State).params.rxPartialPolicy = .dropAtPollStart := by decide

theorem witness_PollIsNotReentrant : (scan [] base).pollActive = true := by decide

theorem witness_RegisterBindsItsIdentifierOnly :
    ((0xFF : Byte) = 0xFF ∧ base.params.hsLocked = true) ∧ ¬ ((0x00 : Byte) = 0xFF ∧ base.params.hsLocked = true) ∧
      ¬ ((0xFF : Byte) = 0xFF ∧
        ({ base with params := { hsLocked := false, rxPartialPolicy := .persist } } : State).params.hsLocked = true) := by
  decide

theorem witness_AStepRunsTheSelectedByteStep :
    Scanning (scan [0xAA] bound) ∧ (scan [0xAA] bound).tp.rxq = 0xAA :: [] ∧
      decode (.byteStep (rxStateCode (scan [0xAA] bound).rx.state) 0xAA) = .ok (.rxSync 0xAA) [] ∧
      Scanning (scan [] bound) ∧ (scan [] bound).tp.rxq = [] :=
  ⟨scanning_scan _, by decide, by decide, scanning_scan _, by decide⟩

theorem witness_AStepRunsTheDispatchedFrame :
    (handed 0x10 (.user 16) [0x01]).sched = [] ∧ (handed 0x10 (.user 16) [0x01]).tx.phase = .idle ∧
      (handed 0x10 (.user 16) [0x01]).held = [] ∧
      (handed 0x10 (.user 16) [0x01]).disp = some { id := 0x10, handler := .user 16, payload := [0x01] } ∧
      (handed 0x10 (.user 16) [0x01]).active = none ∧
      decode (.frame (encodeFrame 0x10 [0x01])) = .ok (.cmd 0x10 [0x01]) [] := by decide

theorem witness_AStepRunsTheInvokedOperation :
    (({ base with hostReq := [.poll] } : State).sched = [] ∧ quiescent { base with hostReq := [.poll] } ∧
      ({ base with hostReq := [.poll] } : State).held = [] ∧
      ({ base with hostReq := [.poll] } : State).hostReq = .poll :: [] ∧ decode (.request .poll) = .ok .poll []) ∧
    ({ running 0x10 (.user 16) [] with sched := [.handlerCall .getNodeId] } : State).sched =
        .handlerCall .getNodeId :: [] ∧
      (running 0x10 (.user 16) []).active = some { id := 0x10, handler := .user 16, payload := [] } ∧
      (running 0x10 (.user 16) []).handlerReturning = false ∧ (running 0x10 (.user 16) []).tx.phase = .idle ∧
      (running 0x10 (.user 16) []).held = [] ∧ decode (.request .getNodeId) = .ok .getNodeId [] := by decide

/-- A user handler in a `send` of its own, with this schedule. -/
def sending (ms : List Move) : State :=
  { running 0x10 (.user 16) [] with tx := { base.tx with phase := .flushing }, sched := ms }

theorem witness_AHandlersActionsWaitForItsSend :
    ((sending [.handlerCall .getNodeId]).active = some { id := 0x10, handler := .user 16, payload := [] } ∧
      (sending [.handlerCall .getNodeId]).sched = .handlerCall .getNodeId :: [] ∧
      (sending [.handlerCall .getNodeId]).handlerReturning = false ∧
      (sending [.handlerCall .getNodeId]).tx.phase = .flushing) ∧
    ((sending [.handlerReturn]).sched = .handlerReturn :: [] ∧
      (sending [.handlerReturn]).handlerReturning = false ∧ (sending [.handlerReturn]).tx.phase = .flushing) ∧
    (({ running 0x10 (.user 16) [] with handlerReturning := true } : State).sched = [] ∧
      ({ running 0x10 (.user 16) [] with handlerReturning := true } : State).disp =
        some { id := 0x10, handler := .user 16, payload := [] } ∧
      ({ running 0x10 (.user 16) [] with handlerReturning := true } : State).handlerReturning = true ∧
      ({ running 0x10 (.user 16) [] with handlerReturning := true } : State).tx.phase = .idle ∧
      ({ running 0x10 (.user 16) [] with handlerReturning := true } : State).held = []) := by decide

theorem witness_AReturningHandlerEndsThePoll :
    ({ running 0x10 (.user 16) [] with sched := [.handlerReturn, .block] } : State).sched =
        .handlerReturn :: .block :: [] ∧
      (running 0x10 (.user 16) []).active = some { id := 0x10, handler := .user 16, payload := [] } ∧
      (running 0x10 (.user 16) []).handlerReturning = false ∧ (running 0x10 (.user 16) []).tx.phase = .idle ∧
      (running 0x10 (.user 16) []).held = [] ∧ (running 0x10 (.user 16) []).pollActive = true := by decide

theorem witness_AnIdleOrWaitingBlockDoesNothing :
    (quiescent base ∧ base.held = [] ∧ base.hostReq = [] ∧ base.sched = []) ∧
    ((running 0x10 (.user 16) []).sched = [] ∧ (running 0x10 (.user 16) []).tx.phase = .idle ∧
      (running 0x10 (.user 16) []).held = [] ∧
      (running 0x10 (.user 16) []).disp = some { id := 0x10, handler := .user 16, payload := [] } ∧
      (running 0x10 (.user 16) []).active = some { id := 0x10, handler := .user 16, payload := [] } ∧
      (running 0x10 (.user 16) []).handlerReturning = false) := by decide

theorem witness_AScheduledBlockMoveIsTheSameStep :
    (scan [0xAA] bound).sched = [] ∧ ∃ t, step (scan [0xAA] bound) = .next t ∧ t.rx.cnt = 1 := ⟨by decide, _, rfl, rfl⟩

theorem witness_TheTransportMoves :
    ({ base with sched := [.arrive 0xAA] } : State).sched = .arrive 0xAA :: [] ∧
      ({ flushing [0xAA, 0x05] with sched := [.sent] } : State).sched = .sent :: [] ∧
      ({ flushing [0xAA, 0x05] with sched := [.sent] } : State).tp.txq = 0xAA :: [0x05] := by decide

theorem witness_AHostOperationWaitsItsTurn :
    (({ base with sched := [.request .poll] } : State).sched = .request .poll :: [] ∧
      ¬ ((HostOp.poll = .poll) ∧ base.pollActive = true)) ∧
    (({ scan [] base with sched := [.request .poll] } : State).sched = .request .poll :: [] ∧
      (scan [] base).pollActive = true) := by decide

theorem witness_EveryStepKeepsAGoodState :
    Inv (scan [0xAA] bound) ∧ ∃ t, step (scan [0xAA] bound) = .next t ∧ t.rx.cnt = 1 := ⟨inv_scan _, _, rfl, rfl⟩

/-- For `NodeIdentityIsImmutable`, `BindingsAreNeverRemoved`, `ReceivedBytesAreReadInOrder`, `TheEventHistoryOnlyGrows` and
`TheLockedEntryNeverChanges`. -/
theorem witness_steps_that_are_no_reset :
    (∀ n ms, (scan [0xAA] bound).sched ≠ .rst n :: ms) ∧
      (∃ t, step (scan [0xAA] bound) = .next t ∧ t.events = [.read 0xAA, .outcome .consumed]) ∧
      (resolve (scan [0xAA] bound).reg 0x10).isSome = true ∧ (scan [0xAA] bound).params.hsLocked = true :=
  ⟨fun _ _ h => (nomatch h), ⟨_, rfl, rfl⟩, by decide, by decide⟩

theorem witness_TheFramerIsHeldWhileAHandlerRuns :
    Inv (handed 0x10 (.user 16) [0x01]) ∧ (handed 0x10 (.user 16) [0x01]).disp ≠ none ∧
      (∀ n ms, (handed 0x10 (.user 16) [0x01]).sched ≠ .rst n :: ms) ∧
      ∃ t, step (handed 0x10 (.user 16) [0x01]) = .next t ∧ t.active ≠ none :=
  ⟨inv_handed, by decide, fun _ _ h => (nomatch h), _, rfl, by decide⟩

theorem witness_RepliesAreTransmittedBeforeThePollEnds :
    (Inv (scan [0xAA] bound) ∧ (scan [0xAA] bound).tp.txq = [] ∧ (∀ n ms, (scan [0xAA] bound).sched ≠ .rst n :: ms) ∧
      ∃ t, step (scan [0xAA] bound) = .next t ∧ (scan [0xAA] bound).tp.rxq = 0xAA :: t.tp.rxq) ∧
    (Inv (answered true) ∧ (answered true).tp.txq = [] ∧ (∀ n ms, (answered true).sched ≠ .rst n :: ms) ∧
      (answered true).disp ≠ none ∧ ∃ t, step (answered true) = .next t ∧ t.disp = none) ∧
    (Inv (answered false) ∧ (answered false).tp.txq = [] ∧ (∀ n ms, (answered false).sched ≠ .rst n :: ms) ∧
      (answered false).pollActive = true ∧ ∃ t, step (answered false) = .next t ∧ t.pollActive = false) :=
  ⟨⟨inv_scan _, by decide, fun _ _ h => (nomatch h), _, rfl, rfl⟩,
    ⟨inv_answered true, by decide, fun _ _ h => (nomatch h), by decide, _, rfl, rfl⟩,
    inv_answered false, by decide, fun _ _ h => (nomatch h), by decide, _, rfl, rfl⟩

theorem witness_TheWriteErrorFlagHasNoEffect :
    (∀ w ms, (flushing []).sched ≠ .writeError w :: ms) ∧ ∃ t, step (flushing []) = .next t ∧ t.tx.phase = .idle :=
  ⟨fun _ _ h => (nomatch h), _, rfl, rfl⟩

theorem witness_AScanEnds : Inv (scan [0x13, 0x37] bound) ∧ Scanning (scan [0x13, 0x37] bound) :=
  ⟨inv_scan _, scanning_scan _⟩

theorem witness_AScanDispatchesTheFrameAtTheFront :
    Inv (scan [0xAA, 0x04, 0x10, 0xBE, 0x13] bound) ∧ Scanning (scan [0xAA, 0x04, 0x10, 0xBE, 0x13] bound) ∧
      (scan [0xAA, 0x04, 0x10, 0xBE, 0x13] bound).rx.state = .awaitSync ∧
      resolve (scan [0xAA, 0x04, 0x10, 0xBE, 0x13] bound).reg 0x10 = some (.user 16) ∧
      ([] : List Byte).length ≤ 60 ∧
      (scan [0xAA, 0x04, 0x10, 0xBE, 0x13] bound).tp.rxq = encodeFrame 0x10 [] ++ [0x13] :=
  ⟨inv_scan _, scanning_scan _, by decide, by decide, by decide, by decide⟩

end Sys2Proof.Tests
end

section
/-! SUPPORT. The scheduler's case equations: which move a step takes, what the block's own step is where nothing is in
progress, and what an agent's invocation does (R10, R97). -/

namespace Sys2Proof.Machine

@[simp] theorem decode_request (op : HostOp) : decode (.request op) = .ok op.instr [] := rfl

/-- With nothing scheduled a step is the block's own (log 1). -/
theorem step_of_sched_nil {s : State} (h : s.sched = []) : step s = blockStep s := by
  simp only [step, nextMove, h]

/-- Otherwise a step takes the first move off the schedule and makes it (log 1). -/
theorem step_of_sched_cons {s : State} {m : Move} {ms : List Move} (h : s.sched = m :: ms) :
    step s = runMove m { s with sched := ms } := by
  simp only [step, nextMove, h]

/-- A quiescent block with nothing held turns to the oldest invoked operation (log 7). -/
theorem turn_of_quiescent {s : State} {op : HostOp} {rest : List HostOp} (hq : quiescent s) (hh : s.held = [])
    (hr : s.hostReq = op :: rest) : turn s = .request op rest := by
  obtain ⟨hpoll, hphase, hdisp⟩ := hq
  simp [turn, hphase, hh, hdisp, hpoll, hr]

theorem blockStep_of_turn_request {s : State} {op : HostOp} {rest : List HostOp} (h : turn s = .request op rest) :
    blockStep s = exec op.instr { s with hostReq := rest } := by
  simp only [blockStep, h]

/-- The converse of `runningHandler_eq_some`. -/
theorem runningHandler_of_active {s : State} {d : Dispatch} {tag : Nat} (ha : s.active = some d)
    (hd : d.handler = .user tag) (hr : s.handlerReturning = false) : runningHandler s = some tag := by
  simp [runningHandler, ha, hd, hr]

/-- A running handler with no `send` of its own in progress invokes an operation at once (R97). -/
theorem handlerInvokes_of_running {s : State} {tag : Nat} (op : HostOp) (h : runningHandler s = some tag)
    (hn : ¬ sendInProgress s) : handlerInvokes op s = exec op.instr s := by
  simp only [handlerInvokes, h, if_neg hn]

/-- What the host invokes waits, unless it is a `poll` inside a poll (R10, U13). -/
theorem hostInvokes_waits {s : State} {op : HostOp} (h : ¬ (op = .poll ∧ s.pollActive = true)) :
    hostInvokes op s = .next { s with hostReq := s.hostReq ++ [op] } := if_neg h

/-- A `poll` inside a poll is refused (R102, U3). -/
theorem hostInvokes_poll_refused {s : State} (h : s.pollActive = true) :
    hostInvokes .poll s = .refused .pollReentered := by
  simp [hostInvokes, h, HostOp.instr, exec, execPoll]

/-- Settles O41: the step's schedule decides whether the block or the handler begins the operation, and either way the
step is that operation's meaning. -/
theorem aStepRunsTheInvokedOperation : Obligations.AStepRunsTheInvokedOperation := by
  refine ⟨fun s op rest i hs hq hh hr hi => ?_, fun s op ms d tag i hs ha hd hr hp hh hi => ?_⟩
  · obtain rfl : op.instr = i := by simpa using hi
    rw [step_of_sched_nil hs, blockStep_of_turn_request (turn_of_quiescent hq hh hr)]
  · obtain rfl : op.instr = i := by simpa using hi
    have hrun : runningHandler { s with sched := ms } = some tag := runningHandler_of_active ha hd hr
    have hn : ¬ sendInProgress { s with sched := ms } := by simp [sendInProgress, hp, hh]
    rw [step_of_sched_cons hs, runMove, handlerInvokes_of_running op hrun hn]

/-- Settles O47: by the two cases of `hostInvokes`. -/
theorem aHostOperationWaitsItsTurn : Obligations.AHostOperationWaitsItsTurn := by
  refine fun s op ms hs => ⟨fun hw => ?_, fun hop hp => ?_⟩
  · rw [step_of_sched_cons hs, runMove]
    exact hostInvokes_waits hw
  · subst hop
    rw [step_of_sched_cons hs, runMove]
    exact hostInvokes_poll_refused hp

end Sys2Proof.Machine
end

section
/-! SUPPORT. What the block cannot see: no operation of the block reads or writes the schedule (log 1) or the transport's
write-error flag (R43, R111). Said as one commutation: putting other values there before an operation is putting them
there after it. -/

namespace Sys2Proof.Machine

/-- `s` with another schedule and another write-error flag. -/
def withUnseen (ms : List Move) (w : Bool) (s : State) : State :=
  { s with sched := ms, tp := { s.tp with werr := w } }

/-- An answer with another schedule and another write-error flag in its state, if it goes on. -/
def mapUnseen (ms : List Move) (w : Bool) (a : Ans State) : Ans State :=
  andThen a fun t => .next (withUnseen ms w t)

theorem withUnseen_self (s : State) : withUnseen s.sched s.tp.werr s = s := rfl

section Commutation

variable {α : Type} {ms : List Move} {w : Bool}

/-- An operand that is read alike on both sides leaves it to what follows. -/
theorem mapUnseen_andThen {a : Ans α} {k k' : α → Ans State} (h : ∀ x, k' x = mapUnseen ms w (k x)) :
    andThen a k' = mapUnseen ms w (andThen a k) := by
  cases a with
  | next x => exact h x
  | fault f => rfl
  | refused r => rfl

/-- Two operations in sequence commute when both do. -/
theorem mapUnseen_bind {a a' : Ans State} {k k' : State → Ans State} (ha : a' = mapUnseen ms w a)
    (h : ∀ t, k' (withUnseen ms w t) = mapUnseen ms w (k t)) : andThen a' k' = mapUnseen ms w (andThen a k) := by
  subst ha
  cases a with
  | next t => exact h t
  | fault f => rfl
  | refused r => rfl

/-- A test that is the same on both sides leaves it to its branches. -/
theorem mapUnseen_ite {p : Prop} [Decidable p] {a b a' b' : Ans State} (ha : p → a' = mapUnseen ms w a)
    (hb : ¬ p → b' = mapUnseen ms w b) : (if p then a' else b') = mapUnseen ms w (if p then a else b) := by
  split
  · exact ha ‹_›
  · exact hb ‹_›

/-! ## The framer -/

theorem rxStore_withUnseen (i : Nat) (b : Byte) (s : State) :
    rxStore i b (withUnseen ms w s) = mapUnseen ms w (rxStore i b s) :=
  mapUnseen_andThen fun _ => rfl

theorem byteStep_withUnseen {st : RxState} {s : State} {k k' : Ans State} (h : k' = mapUnseen ms w k) :
    byteStep st (withUnseen ms w s) k' = mapUnseen ms w (byteStep st s k) :=
  mapUnseen_ite (fun _ => mapUnseen_ite (fun _ => rfl) fun _ => h) fun _ => rfl

theorem complete_withUnseen (b : Byte) (s : State) :
    complete b (withUnseen ms w s) = mapUnseen ms w (complete b s) :=
  mapUnseen_ite (fun _ => mapUnseen_andThen fun _ => mapUnseen_andThen fun _ => rfl) fun _ => rfl

theorem execRxSync_withUnseen (b : Byte) (s : State) :
    execRxSync b (withUnseen ms w s) = mapUnseen ms w (execRxSync b s) :=
  byteStep_withUnseen <| mapUnseen_ite (fun _ => mapUnseen_bind (rxStore_withUnseen 0 b s) fun _ => rfl) fun _ => rfl

theorem execRxLen_withUnseen (b : Byte) (s : State) :
    execRxLen b (withUnseen ms w s) = mapUnseen ms w (execRxLen b s) :=
  byteStep_withUnseen <| mapUnseen_ite (fun _ => mapUnseen_bind (rxStore_withUnseen 1 b s) fun _ => rfl) fun _ => rfl

theorem execRxId_withUnseen (b : Byte) (s : State) :
    execRxId b (withUnseen ms w s) = mapUnseen ms w (execRxId b s) := by
  refine byteStep_withUnseen ?_
  have hreg : resolve (withUnseen ms w s).reg b = resolve s.reg b := rfl
  rw [hreg]
  cases resolve s.reg b with
  | some h => exact mapUnseen_bind (rxStore_withUnseen 2 b s) fun _ => rfl
  | none => rfl

theorem execRxAcc_withUnseen (b : Byte) (s : State) :
    execRxAcc b (withUnseen ms w s) = mapUnseen ms w (execRxAcc b s) :=
  byteStep_withUnseen <| mapUnseen_bind (rxStore_withUnseen s.rx.cnt b s) fun t =>
    mapUnseen_ite (fun _ => rfl) fun _ => complete_withUnseen b t

/-! ## The serializer and the received frames -/

theorem serialise_withUnseen (id : Byte) (payload : List Byte) (s : State) :
    serialise id payload (withUnseen ms w s) = mapUnseen ms w (serialise id payload s) :=
  mapUnseen_andThen fun _ => mapUnseen_andThen fun _ => rfl

theorem sendOp_withUnseen (id : Byte) (payload : List Byte) (s : State) :
    sendOp id payload (withUnseen ms w s) = mapUnseen ms w (sendOp id payload s) :=
  mapUnseen_ite (fun _ => rfl) fun _ => mapUnseen_ite (fun _ => rfl) fun _ => serialise_withUnseen id payload s

theorem respond_withUnseen (payload : List Byte) (s : State) :
    respond payload (withUnseen ms w s) = mapUnseen ms w (respond payload s) := by
  cases payload with
  | nil => rfl
  | cons p _ => exact sendOp_withUnseen Config.hsId [replyByte s.nodeId p] s

theorem invokeHandler_withUnseen (id : Byte) (payload : List Byte) (s : State) :
    invokeHandler id payload (withUnseen ms w s) = mapUnseen ms w (invokeHandler id payload s) := by
  unfold invokeHandler
  have hdisp : (withUnseen ms w s).disp = s.disp := rfl
  have hactive : (withUnseen ms w s).active = s.active := rfl
  rw [hdisp, hactive]
  cases s.disp with
  | none => rfl
  | some d =>
    cases s.active with
    | some a => rfl
    | none =>
      refine mapUnseen_ite (fun _ => ?_) fun _ => rfl
      cases d.handler with
      | hs => exact respond_withUnseen payload { s with disp := some d, active := some d }
      | user n => rfl

/-! ## Host operations, and every instruction -/

theorem execPoll_withUnseen (s : State) : execPoll (withUnseen ms w s) = mapUnseen ms w (execPoll s) := by
  refine mapUnseen_ite (fun _ => rfl) fun _ => ?_
  have hparams : (withUnseen ms w s).params = s.params := rfl
  rw [hparams]
  cases s.params.rxPartialPolicy <;> rfl

theorem execRegister_withUnseen (id : Byte) (h : Handler) (s : State) :
    execRegister id h (withUnseen ms w s) = mapUnseen ms w (execRegister id h s) :=
  mapUnseen_ite (fun _ => rfl) fun _ => rfl

/-- No instruction sees the schedule or the write-error flag. -/
theorem exec_withUnseen (i : Instr) (s : State) : exec i (withUnseen ms w s) = mapUnseen ms w (exec i s) := by
  cases i with
  | cmd id payload => exact invokeHandler_withUnseen id payload s
  | hsReq rest => exact invokeHandler_withUnseen Config.hsId (Config.hsRequest :: rest) s
  | hsConfirm c rest => exact invokeHandler_withUnseen Config.hsId (c :: rest) s
  | hsEmpty => exact invokeHandler_withUnseen Config.hsId [] s
  | hsId node => exact sendOp_withUnseen Config.hsId [node] s
  | hsOk => exact sendOp_withUnseen Config.hsId [Config.hsOk] s
  | hsErr => exact sendOp_withUnseen Config.hsId [Config.hsError] s
  | rxSync b => exact execRxSync_withUnseen b s
  | rxLen b => exact execRxLen_withUnseen b s
  | rxId b => exact execRxId_withUnseen b s
  | rxAcc b => exact execRxAcc_withUnseen b s
  | poll => exact execPoll_withUnseen s
  | send id payload => exact sendOp_withUnseen id payload s
  | register id h => exact execRegister_withUnseen id h s
  | getNodeId => rfl

/-! ## The block's own step -/

theorem turn_withUnseen (s : State) : turn (withUnseen ms w s) = turn s := rfl

theorem flushStep_withUnseen (s : State) : flushStep (withUnseen ms w s) = withUnseen ms w (flushStep s) := by
  by_cases h : s.tp.txq = []
  · rw [flushStep_empty h, flushStep_empty (s := withUnseen ms w s) h]
    rfl
  · rw [flushStep_waits h, flushStep_waits (s := withUnseen ms w s) h]

/-- The byte is read alike, and what is left does not show the difference. -/
theorem readThenExec_withUnseen (i : Instr) (s : State) :
    (andThen (transportRead (withUnseen ms w s)) fun r => exec i r.2) =
      mapUnseen ms w (andThen (transportRead s) fun r => exec i r.2) := by
  cases h : s.tp.rxq with
  | nil => simp only [transportRead, withUnseen, h, andThen_fault, mapUnseen]
  | cons b q =>
    rw [transportRead_cons h, transportRead_cons (s := withUnseen ms w s) h]
    exact exec_withUnseen i (afterRead b q s)

/-- The block's own step sees neither the schedule nor the write-error flag, and changes neither. -/
theorem blockStep_withUnseen (s : State) : blockStep (withUnseen ms w s) = mapUnseen ms w (blockStep s) := by
  unfold blockStep
  rw [turn_withUnseen]
  cases turn s with
  | flush => exact congrArg Host.Outcome.next (flushStep_withUnseen s)
  | heldOp op rest => exact exec_withUnseen op.instr { s with held := rest }
  | frame i => exact exec_withUnseen i s
  | byteStep i => exact readThenExec_withUnseen i s
  | request op rest => exact exec_withUnseen op.instr { s with hostReq := rest }
  | responderReturn => rfl
  | handlerRuns => rfl
  | handlerReturns => rfl
  | pollEnd => rfl
  | scanEnd => rfl
  | idle => rfl

end Commutation

/-! ## The block's step under another schedule -/

/-- A step of the block that goes on leaves the schedule and the write-error flag as they are. -/
theorem blockStep_keeps_unseen {s t : State} (h : blockStep s = .next t) :
    t.sched = s.sched ∧ t.tp.werr = s.tp.werr := by
  have hc := blockStep_withUnseen (ms := s.sched) (w := s.tp.werr) s
  rw [withUnseen_self, h] at hc
  have ht : t = withUnseen s.sched s.tp.werr t := Host.Outcome.next.inj hc
  rw [ht]
  exact ⟨rfl, rfl⟩

/-- The block's own step under another schedule. -/
theorem blockStep_withSched {s t : State} (ms : List Move) (h : blockStep s = .next t) :
    blockStep { s with sched := ms } = .next { t with sched := ms } := by
  have hc : blockStep { s with sched := ms } = .next (withUnseen ms s.tp.werr t) :=
    (blockStep_withUnseen s).trans (congrArg (mapUnseen ms s.tp.werr) h)
  rw [hc, ← (blockStep_keeps_unseen h).2]
  rfl

/-- Settles O45: the block's own step does not see the schedule. -/
theorem aScheduledBlockMoveIsTheSameStep : Obligations.AScheduledBlockMoveIsTheSameStep := by
  intro s t ms hs h
  rw [step_of_sched_nil hs] at h
  have hmove : step { s with sched := .block :: ms } = blockStep { s with sched := ms } := rfl
  rw [hmove, blockStep_withSched ms h]

end Sys2Proof.Machine
end

section
/-! SUPPORT. What keeps the invariants of the RX and TX registers (R34, R35): storing the next byte of the in-flight
frame, discarding it, and building a frame. -/

namespace Sys2Proof.Machine

/-! ## The in-flight frame -/

/-- Storing a byte right after the bytes that are there appends it to them. -/
theorem bufSlice_store {m : Memory} {n : Nat} {bs : List Byte} (b : Byte) (hn : n < 64)
    (h : bufSlice n m 0 n = .next bs) : bufSlice (n + 1) (tableSet m n b) 0 (n + 1) = .next (bs ++ [b]) := by
  obtain ⟨hl, hall⟩ := bufSlice_eq_next.mp h
  refine bufSlice_eq_next.mpr ⟨by simp [hl], fun j hj => ⟨by omega, by omega, ?_⟩⟩
  rw [Nat.zero_add]
  by_cases hjn : j = n
  · subst hjn
    rw [tableGet_set_same, List.getElem?_append_right (by omega)]
    simp [hl]
  · have hg : tableGet m j = bs[j]? := by simpa using (hall j (by omega)).2.2
    rw [tableGet_set_other _ _ hjn, hg, List.getElem?_append_left (by omega)]

section RxRegisters

variable {r : RxRegs} {b : Byte}

/-- Storing a byte and folding it into `rx_chk` keeps `rx_chk` the XOR of the in-flight frame (R34 item 5). -/
theorem RxInv.chk_store (h : RxInv r) (b : Byte) :
    ∃ bs, bufSlice (r.cnt + 1) (tableSet r.buf r.cnt b) 0 (r.cnt + 1) = .next bs ∧ chkAcc r.chk b = xorSum bs := by
  obtain ⟨bs, hbs, hchk⟩ := h.chk
  have hn : r.cnt < 64 := Nat.lt_succ_of_le h.bound
  exact ⟨bs ++ [b], bufSlice_store b hn hbs, by rw [xorSum_append_singleton, ← hchk, chkAcc]⟩

theorem RxInv.buf_store (h : RxInv r) (b : Byte) : Memory.wf (tableSet r.buf r.cnt b) = true :=
  tableSet_wf b h.buf (Nat.zero_le _) (Nat.lt_succ_of_le h.bound)

/-- The sync byte stays the first byte of the in-flight frame. -/
theorem RxInv.first_store (h : RxInv r) (b : Byte) (hc : 1 ≤ r.cnt) :
    tableGet (tableSet r.buf r.cnt b) 0 = some Config.sync := by
  rw [tableGet_set_other _ _ (by omega), h.first hc]

/-- With nothing in flight the registers are good, whatever the buffer holds (R93). -/
theorem rxInv_rxResetRegs (hw : Memory.wf r.buf = true) : RxInv (rxResetRegs r) where
  sync := by simp
  length := by simp
  ident := by simp
  acc := by simp
  first := by simp
  len := by simp
  lenInvalid := fun _ => rfl
  handler := by simp
  chk := ⟨[], rfl, rfl⟩
  bound := Nat.zero_le _
  buf := hw

/-- R88: the sync byte begins a frame. -/
theorem RxInv.syncAccepted (h : RxInv r) (hs : r.state = .awaitSync) (hb : b = Config.sync) :
    RxInv { r with buf := tableSet r.buf 0 b, chk := chkAcc r.chk b, cnt := 1, state := .awaitLength } := by
  have hc : r.cnt = 0 := h.sync.mp hs
  have hchk := h.chk_store b
  have hbuf := h.buf_store b
  rw [hc] at hchk hbuf
  exact {
    sync := by simp
    length := by simp
    ident := by simp
    acc := by simp
    first := fun _ => by simp [hb]
    len := fun hl => absurd hl (by simp)
    lenInvalid := fun _ => h.lenInvalid (by omega)
    handler := by simp [h.handler, hc]
    chk := hchk
    bound := by simp
    buf := hbuf }

/-- R89: a legal length byte makes `rx_len` valid. -/
theorem RxInv.lengthAccepted (h : RxInv r) (hs : r.state = .awaitLength) (hb : lengthTest b) :
    RxInv { r with
      buf := tableSet r.buf 1 b, chk := chkAcc r.chk b, len := some b.toNat, cnt := 2, state := .awaitIdentifier } := by
  have hc : r.cnt = 1 := h.length.mp hs
  have hchk := h.chk_store b
  have hbuf := h.buf_store b
  have hfirst := h.first_store b (by omega)
  rw [hc] at hchk hbuf hfirst
  obtain ⟨hmin, hmax⟩ : 4 ≤ b.toNat ∧ b.toNat ≤ 64 := hb
  exact {
    sync := by simp
    length := by simp
    ident := by simp
    acc := by simp
    first := fun _ => hfirst
    len := fun _ => ⟨b.toNat, rfl, hmin, hmax, by simp, Nat.le_of_lt hmin⟩
    lenInvalid := fun hl => absurd hl (by simp)
    handler := by simp [h.handler, hc]
    chk := hchk
    bound := by simp
    buf := hbuf }

/-- R90: a known identifier makes `rx_handler` valid. -/
theorem RxInv.identifierAccepted (h : RxInv r) (hs : r.state = .awaitIdentifier) (hd : Handler) :
    RxInv { r with
      buf := tableSet r.buf 2 b, chk := chkAcc r.chk b, handler := some hd, cnt := 3,
      state := .accumulatePayload } := by
  have hc : r.cnt = 2 := h.ident.mp hs
  have hchk := h.chk_store b
  have hbuf := h.buf_store b
  have hfirst := h.first_store b (by omega)
  rw [hc] at hchk hbuf hfirst
  obtain ⟨l, hlen, hmin, hmax, hget, -⟩ := h.len (by omega)
  exact {
    sync := by simp
    length := by simp
    ident := by simp
    acc := by simp
    first := fun _ => hfirst
    len := fun _ => ⟨l, hlen, hmin, hmax, by rw [tableGet_set_other _ _ (by omega), hget], hmin⟩
    lenInvalid := fun hl => absurd hl (by simp)
    handler := by simp
    chk := hchk
    bound := by simp
    buf := hbuf }

/-- R91: a payload byte that is not the last byte is collected. -/
theorem RxInv.payloadAccepted (h : RxInv r) (hs : r.state = .accumulatePayload) {l : Nat} (hlen : r.len = some l)
    (hl : r.cnt + 1 < l) :
    RxInv { r with buf := tableSet r.buf r.cnt b, chk := chkAcc r.chk b, cnt := r.cnt + 1 } := by
  have hc : 3 ≤ r.cnt := h.acc.mp hs
  obtain ⟨l', hlen', hmin, hmax, hget, -⟩ := h.len (by omega)
  obtain rfl : l' = l := Option.some.inj (hlen'.symm.trans hlen)
  exact {
    sync := by simp [hs]
    length := by simp [hs]; omega
    ident := by simp [hs]; omega
    acc := by simp only [hs, true_iff]; omega
    first := fun _ => h.first_store b (by omega)
    len := fun _ => ⟨l', hlen, hmin, hmax, by rw [tableGet_set_other _ _ (by omega), hget], hl⟩
    lenInvalid := fun hl2 => absurd hl2 (by simp only; omega)
    handler := by rw [h.handler]; simp only; omega
    chk := h.chk_store b
    bound := by simp only; omega
    buf := h.buf_store b }

end RxRegisters

/-! ## What a byte step does -/

/-- What a byte step does when it goes on (R94, R132): it writes the RX registers and is labelled, or at the last byte of
a frame it also hands the frame off. -/
inductive ByteEffect (s : State) : State → Prop where
  | parsed (o : RxOutcome) (r : RxRegs) (hr : RxInv s.rx → RxInv r) : ByteEffect s (logOutcome o { s with rx := r })
  | handedOff (o : RxOutcome) (r : RxRegs) (d : Dispatch) (hc : r.cnt = 0) (hr : RxInv s.rx → RxInv r)
      (hp : RxInv s.rx → d.payload.length ≤ 60) :
      ByteEffect s (dispatch d.id d.handler d.payload (logOutcome o { s with rx := r }))

/-- The last byte of a frame (R92). -/
theorem complete_effect {b : Byte} {s t : State} (hs : s.rx.state = .accumulatePayload)
    (h : complete b { s with rx := { s.rx with buf := tableSet s.rx.buf s.rx.cnt b } } = .next t) :
    ByteEffect s t := by
  have hreset : RxInv s.rx → RxInv (rxResetRegs { s.rx with buf := tableSet s.rx.buf s.rx.cnt b }) :=
    fun hi => rxInv_rxResetRegs (hi.buf_store b)
  rcases complete_eq_next h with ⟨-, id, payload, -, hpayload, rfl⟩ | ⟨-, rfl⟩
  · refine .handedOff _ _ ⟨id, _, payload⟩ rfl hreset fun hi => ?_
    have h3 : 3 ≤ s.rx.cnt := hi.acc.mp hs
    obtain ⟨l, hlen, -, hmax, -⟩ := hi.len (by omega)
    rw [(bufSlice_eq_next.mp hpayload).1, readLen_valid (l := l)]
    · omega
    · exact hlen
  · exact .parsed _ _ hreset

theorem selected_byteStep_effect {b : Byte} {s t : State}
    (h : exec (decodeByteStep (rxStateCode s.rx.state) b) s = .next t) : ByteEffect s t := by
  have hreset : RxInv s.rx → RxInv (rxResetRegs s.rx) := fun hi => rxInv_rxResetRegs hi.buf
  rcases selected_byteStep_cases h with ⟨-, rfl⟩ | ⟨-, hsync | hlength | hident | hacc⟩
  · exact .parsed _ _ hreset
  · obtain ⟨hs, ⟨hb, rfl⟩ | ⟨-, rfl⟩⟩ := hsync
    · exact .parsed _ _ fun hi => hi.syncAccepted hs hb
    · exact .parsed _ _ id
  · obtain ⟨hs, ⟨hb, rfl⟩ | ⟨-, rfl⟩⟩ := hlength
    · exact .parsed _ _ fun hi => hi.lengthAccepted hs hb
    · exact .parsed _ _ hreset
  · obtain ⟨hs, ⟨hd, -, rfl⟩ | ⟨-, rfl⟩⟩ := hident
    · exact .parsed _ _ fun hi => hi.identifierAccepted hs hd
    · exact .parsed _ _ hreset
  · obtain ⟨hs, ⟨hl, rfl⟩ | ⟨-, h⟩⟩ := hacc
    · refine .parsed _ _ fun hi => ?_
      have h3 : 3 ≤ s.rx.cnt := hi.acc.mp hs
      obtain ⟨l, hlen, -⟩ := hi.len (by omega)
      exact hi.payloadAccepted hs hlen (readLen_valid hlen ▸ hl)
    · exact complete_effect hs h

/-! ## The frame being flushed -/

/-- Every frame the encoder makes is well-formed (R65). -/
theorem wellFormedFrame_encodeFrame (id : Byte) {payload : List Byte} (h : payload.length ≤ 60) :
    wellFormedFrame (encodeFrame id payload) = true := by
  have hlast : (encodeFrame id payload).getLast? = some (xorSum (encodeFrame id payload).dropLast) := by
    simp only [encodeFrame, List.getLast?_concat, List.dropLast_concat]
  rw [encodeFrame_eq] at hlast ⊢
  have hmod : (payload.length + 4) % 256 = payload.length + 4 := Nat.mod_eq_of_lt (by omega)
  simp only [wellFormedFrame, hlast]
  simp [Config.minLen, Config.maxLen, hmod]
  omega

/-- A frame whose flush has begun is the well-formed frame R35 asks for. -/
theorem FrameSent.txInv {id : Byte} {payload : List Byte} {s t : State} (h : FrameSent (encodeFrame id payload) s t)
    (hp : payload.length ≤ 60) (hw : Memory.wf t.tx.buf = true) : TxInv t.tx where
  cnt := by rw [h.cnt, encodeFrame_length]; omega
  buf := hw
  frame := fun _ => ⟨_, h.buf, wellFormedFrame_encodeFrame id hp⟩

end Sys2Proof.Machine
end

section
/-! SUPPORT. What the effects of `StepEffect` leave unchanged, and that each of them keeps a good state good. -/

namespace Sys2Proof.Machine

/-! ## What leaves the receive side and the poll alone -/

/-- Nothing of the receive side, the registry, the poll and the hand-off differs, nor the node's identity and parameters:
at most the TX registers, the queues, the held and the invoked operations, the schedule and the history do. -/
structure SameControl (s t : State) : Prop where
  rx : t.rx = s.rx
  reg : t.reg = s.reg
  nodeId : t.nodeId = s.nodeId
  params : t.params = s.params
  pollActive : t.pollActive = s.pollActive
  pollEnding : t.pollEnding = s.pollEnding
  disp : t.disp = s.disp
  active : t.active = s.active
  handlerReturning : t.handlerReturning = s.handlerReturning

/-- Of what `SameControl` leaves open a good state asks for nothing but good TX registers. -/
theorem Inv.of_sameControl {s t : State} (hi : Inv s) (hf : SameControl s t) (htx : TxInv t.tx) : Inv t := by
  obtain ⟨hrx, hreg, -, hparams, hpoll, hending, hdisp, hactive, hreturning⟩ := hf
  obtain ⟨rx, -, reg, poll⟩ := hi
  refine ⟨hrx ▸ rx, htx, ⟨hreg ▸ reg.wf, ?_⟩, ?_⟩
  · rw [hparams, hreg]
    exact reg.locked
  · constructor
    · rw [hpoll, hdisp]; exact poll.disp
    · rw [hpoll, hending]; exact poll.ending
    · rw [hactive, hdisp]; exact poll.active
    · rw [hreturning, hactive]; exact poll.returning
    · rw [hending, hdisp]; exact poll.returned
    · rw [hdisp, hrx]; exact poll.parser
    · rw [hdisp]; exact poll.payload

/-- `send` is held, refused or written, and touches nothing on the receive side (R106, R107, R110). -/
theorem sendOp_sameControl {id : Byte} {payload : List Byte} {s t : State} (h : sendOp id payload s = .next t) :
    SameControl s t ∧ t.tp.rxq = s.tp.rxq := by
  obtain ⟨t', ht', hcases⟩ := sendOp_cases id payload s
  obtain rfl : t' = t := Host.Outcome.next.inj (ht'.symm.trans h)
  rcases hcases with ⟨-, rfl⟩ | ⟨-, -, rfl⟩ | ⟨-, -, -, honly, hactive, -⟩
  · exact ⟨by constructor <;> rfl, rfl⟩
  · exact ⟨by constructor <;> rfl, rfl⟩
  · exact ⟨{ honly with active := hactive }, honly.rxq⟩

theorem sendOp_keeps_txInv {id : Byte} {payload : List Byte} {s t : State} (hi : TxInv s.tx)
    (h : sendOp id payload s = .next t) : TxInv t.tx := by
  obtain ⟨t', ht', hcases⟩ := sendOp_cases id payload s
  obtain rfl : t' = t := Host.Outcome.next.inj (ht'.symm.trans h)
  rcases hcases with ⟨-, rfl⟩ | ⟨-, -, rfl⟩ | ⟨-, hp, hsent, -, -, hw⟩
  · exact hi
  · exact hi
  · exact hsent.txInv hp (hw hi.buf)

theorem sendOp_keeps_inv {id : Byte} {payload : List Byte} {s t : State} (hi : Inv s)
    (h : sendOp id payload s = .next t) : Inv t :=
  hi.of_sameControl (sendOp_sameControl h).1 (sendOp_keeps_txInv hi.tx h)

/-! ## Reset -/

/-- Reset makes the block good whatever it was before (R142). -/
theorem inv_applyReset (n : Byte) (s : State) : Inv (applyReset n s) where
  rx := rxInv_rxResetRegs (r := RxRegs.reset) rfl
  tx := ⟨Nat.zero_le _, rfl, fun h => nomatch h⟩
  reg := ⟨rfl, fun _ => rfl⟩
  poll := ⟨fun _ => rfl, fun _ => rfl, Or.inl rfl, fun h => (nomatch h), fun _ => rfl, fun _ => rfl,
    fun _ h => nomatch h⟩

/-- Settles O48: the reset state is a state that reset has been applied to. -/
theorem resetIsAGoodState : Obligations.ResetIsAGoodState :=
  inv_applyReset Config.nodeIdIn State.reset

/-! ## The poll and the hand-off -/

section Poll

variable {s t : State}

/-- A frame is handed off only inside a poll (R34 item 7). -/
theorem PollInv.pollActive_of_disp (h : PollInv s) (hd : s.disp ≠ none) : s.pollActive = true :=
  Bool.eq_true_of_not_eq_false fun hp => hd (h.disp hp)

/-- A handler runs only inside a poll (R97). -/
theorem PollInv.pollActive_of_active {a : Dispatch} (h : PollInv s) (ha : s.active = some a) : s.pollActive = true := by
  have hd : s.disp = some a := by simpa [ha, eq_comm] using h.active
  exact h.pollActive_of_disp (by simp [hd])

/-- Before a poll begins no frame is handed off and no handler runs, so line 0 of R98 cannot disturb one. -/
theorem Inv.pollBegun (hi : Inv s) (ha : s.pollActive = false) :
    Inv { s with pollActive := true, pollEnding := false } where
  rx := hi.rx
  tx := hi.tx
  reg := ⟨hi.reg.wf, hi.reg.locked⟩
  poll := ⟨fun h => (nomatch h), fun h => (nomatch h), hi.poll.active, hi.poll.returning, fun _ => hi.poll.disp ha,
    hi.poll.parser, hi.poll.payload⟩

/-- `rx_reset()` keeps a good state good (R93). -/
theorem Inv.parserReset (hi : Inv s) : Inv (rxReset s) where
  rx := rxInv_rxResetRegs hi.rx.buf
  tx := hi.tx
  reg := ⟨hi.reg.wf, hi.reg.locked⟩
  poll := { hi.poll with parser := fun _ => rfl }

/-- A registration that is not refused leaves a locked reserved entry alone (R113, R114). -/
theorem Inv.handlerBound (hi : Inv s) {id : Byte} (h : Handler)
    (hl : ¬ (id = Config.hsId ∧ s.params.hsLocked = true)) :
    Inv { s with reg := bindHandler s.reg id h } where
  rx := hi.rx
  tx := hi.tx
  reg := by
    refine ⟨bindHandler_wf id h hi.reg.wf, fun hlocked => ?_⟩
    have hid : Config.hsId ≠ id := fun e => hl ⟨e.symm, hlocked⟩
    exact (resolve_bind_other s.reg h hid).trans (hi.reg.locked hlocked)
  poll := { hi.poll with }

/-- The handler of the frame in `disp` runs (R97). -/
theorem Inv.handlerInvoked (hi : Inv s) {d : Dispatch} (hd : s.disp = some d) : Inv { s with active := some d } where
  rx := hi.rx
  tx := hi.tx
  reg := ⟨hi.reg.wf, hi.reg.locked⟩
  poll := { hi.poll with active := Or.inr hd.symm, returning := fun _ h => nomatch h }

/-- A handler that runs returns, which is inside a poll (R97, R98 line 3). -/
theorem Inv.handlerDone (hi : Inv s) {a : Dispatch} (ha : s.active = some a) : Inv (handlerReturned s) where
  rx := hi.rx
  tx := hi.tx
  reg := ⟨hi.reg.wf, hi.reg.locked⟩
  poll := by
    have hp : s.pollActive = true := hi.poll.pollActive_of_active ha
    exact ⟨fun _ => rfl, fun h => absurd (hp.symm.trans h) (by decide), Or.inl rfl, fun h => (nomatch h),
      fun _ => rfl, fun h => absurd rfl h, fun _ h => nomatch h⟩

/-- R98 line 4, with no frame handed off. -/
theorem Inv.pollEnded (hi : Inv s) (hd : s.disp = none) : Inv (pollEnd s) where
  rx := hi.rx
  tx := hi.tx
  reg := ⟨hi.reg.wf, hi.reg.locked⟩
  poll := { hi.poll with disp := fun _ => hd, ending := fun _ => rfl, returned := fun _ => hd }

/-- R98 line 1, with no byte available. -/
theorem Inv.scanEnded (hi : Inv s) (hd : s.disp = none) (ha : s.pollActive = true) : Inv (scanEnd s) where
  rx := hi.rx
  tx := hi.tx
  reg := ⟨hi.reg.wf, hi.reg.locked⟩
  poll := { hi.poll with ending := fun h => absurd (ha.symm.trans h) (by decide), returned := fun _ => hd }

/-- R98 line 2: a byte step, taken inside a poll that is not ending with no frame handed off. -/
theorem ByteEffect.keeps_inv (h : ByteEffect s t) (hi : Inv s) (hd : s.disp = none) (ha : s.pollActive = true)
    (he : s.pollEnding = false) : Inv t := by
  cases h with
  | parsed o r hr =>
    exact {
      rx := hr hi.rx
      tx := hi.tx
      reg := ⟨hi.reg.wf, hi.reg.locked⟩
      poll := { hi.poll with parser := fun h => absurd hd h } }
  | handedOff o r d hc hr hp =>
    have hactive : s.active = none := by simpa [hd] using hi.poll.active
    exact {
      rx := hr hi.rx
      tx := hi.tx
      reg := ⟨hi.reg.wf, hi.reg.locked⟩
      poll := {
        disp := fun h => absurd (ha.symm.trans h) (by decide)
        ending := hi.poll.ending
        active := Or.inl hactive
        returning := hi.poll.returning
        returned := fun h => absurd (he.symm.trans h) (by decide)
        parser := fun _ => hc
        payload := fun d' h => by
          obtain rfl : d = d' := Option.some.inj h
          exact hp hi.rx } }

end Poll

/-! ## Every step keeps a good state -/

section Preservation

variable {s t : State}

theorem OpEffect.keeps_inv (h : OpEffect s t) (hi : Inv s) : Inv t := by
  cases h with
  | pollPersist ha _ => exact (hi.pollBegun ha).of_sameControl (by constructor <;> rfl) hi.tx
  | pollDrop ha _ => exact (hi.pollBegun ha).parserReset.of_sameControl (by constructor <;> rfl) hi.tx
  | send id payload t h => exact sendOp_keeps_inv hi h
  | locked id h hl => exact hi.of_sameControl (by constructor <;> rfl) hi.tx
  | bound id h hl => exact (hi.handlerBound h hl).of_sameControl (by constructor <;> rfl) hi.tx
  | nodeId => exact hi.of_sameControl (by constructor <;> rfl) hi.tx

theorem invokeHandler_keeps_inv {id : Byte} {payload : List Byte} (hi : Inv s)
    (h : invokeHandler id payload s = .next t) : Inv t := by
  obtain ⟨d, hd, -, -, -, rfl | ⟨-, r, hsend⟩⟩ := invokeHandler_eq_next h
  · exact hi.handlerInvoked hd
  · exact sendOp_keeps_inv (hi.handlerInvoked hd) hsend

theorem BlockEffect.keeps_inv (h : BlockEffect s t) (hi : Inv s) : Inv t := by
  cases h with
  | nothing => exact hi
  | flushed _ _ => exact hi.of_sameControl (by constructor <;> rfl) { hi.tx with frame := fun h => nomatch h }
  | held _ op rest _ t h =>
    have hheld : Inv { s with held := rest } := hi.of_sameControl (by constructor <;> rfl) hi.tx
    exact (execOp_effect h).keeps_inv hheld
  | frame _ d _ _ t h => exact invokeHandler_keeps_inv hi h
  | returned _ d a _ ha _ => exact hi.handlerDone ha
  | pollEnd _ hd _ _ => exact hi.pollEnded hd
  | scanEnd _ hd ha _ _ => exact hi.scanEnded hd ha
  | byte _ hd ha he b q _ t h =>
    have hread : Inv (afterRead b q s) := hi.of_sameControl (by constructor <;> rfl) hi.tx
    exact (selected_byteStep_effect h).keeps_inv hread hd ha he
  | request _ _ _ op rest _ t h =>
    have hreq : Inv { s with hostReq := rest } := hi.of_sameControl (by constructor <;> rfl) hi.tx
    exact h.keeps_inv hreq

theorem StepEffect.keeps_inv {m : Option Move} (h : StepEffect s m t) (hi : Inv s) : Inv t := by
  cases h with
  | block m t h _ => exact h.keeps_inv hi
  | rst n => exact inv_applyReset n s
  | called op a n _ _ _ t h => exact h.keeps_inv hi
  | returned a n ha _ _ => exact hi.handlerDone ha
  | returnedInSend a n ha _ _ =>
    exact ⟨hi.rx, hi.tx, ⟨hi.reg.wf, hi.reg.locked⟩, { hi.poll with returning := fun _ => by simp [ha] }⟩
  | arrive b => exact hi.of_sameControl (by constructor <;> rfl) hi.tx
  | sent => exact hi.of_sameControl (by constructor <;> rfl) hi.tx
  | lost n => exact hi.of_sameControl (by constructor <;> rfl) hi.tx
  | writeError v => exact hi.of_sameControl (by constructor <;> rfl) hi.tx
  | invoked op => exact hi.of_sameControl (by constructor <;> rfl) hi.tx
  | calledInSend op a n _ _ _ => exact hi.of_sameControl (by constructor <;> rfl) hi.tx

end Preservation

/-- Settles O49: by the effect the step has, on the state with its move taken off the schedule. -/
theorem everyStepKeepsAGoodState : Obligations.EveryStepKeepsAGoodState := fun s _ hi h =>
  have hsched : Inv { s with sched := s.sched.tail } := hi.of_sameControl (by constructor <;> rfl) hi.tx
  (step_effect h).keeps_inv hsched

end Sys2Proof.Machine
end

section
/-! SUPPORT. What no step but reset changes: the node's identity and parameters, and, while a frame is handed off, the
framer. -/

namespace Sys2Proof.Machine

/-- A schedule that does not begin with reset has no reset as its first move. -/
theorem head?_ne_rst {ms : List Move} (h : ∀ n ms', ms ≠ .rst n :: ms') (n : Byte) : ms.head? ≠ some (.rst n) := by
  intro e
  obtain ⟨ms', rfl⟩ := List.head?_eq_some_iff.mp e
  exact h n ms' rfl

/-! ## The node's identity and the parameters -/

/-- `NODE_ID` and the parameters are the same (R26, R37). -/
def SameIdentity (s t : State) : Prop := t.nodeId = s.nodeId ∧ t.params = s.params

section Identity

variable {s t : State}

theorem SameControl.sameIdentity (h : SameControl s t) : SameIdentity s t := ⟨h.nodeId, h.params⟩

theorem OpEffect.sameIdentity (h : OpEffect s t) : SameIdentity s t := by
  cases h with
  | send id payload t h => exact (sendOp_sameControl h).1.sameIdentity
  | pollPersist _ _ => exact ⟨rfl, rfl⟩
  | pollDrop _ _ => exact ⟨rfl, rfl⟩
  | locked id h _ => exact ⟨rfl, rfl⟩
  | bound id h _ => exact ⟨rfl, rfl⟩
  | nodeId => exact ⟨rfl, rfl⟩

theorem ByteEffect.sameIdentity (h : ByteEffect s t) : SameIdentity s t := by
  cases h with
  | parsed o r _ => exact ⟨rfl, rfl⟩
  | handedOff o r d _ _ _ => exact ⟨rfl, rfl⟩

/-- Invoking a handler with the frame in `disp` changes nothing else that `SameControl` names, and reads no byte. -/
theorem invokeHandler_sameControl {id : Byte} {payload : List Byte} (h : invokeHandler id payload s = .next t) :
    ∃ d, s.disp = some d ∧ SameControl { s with active := some d } t ∧ t.tp.rxq = s.tp.rxq := by
  obtain ⟨d, hd, -, -, -, rfl | ⟨-, r, hsend⟩⟩ := invokeHandler_eq_next h
  · exact ⟨d, hd, by constructor <;> rfl, rfl⟩
  · exact ⟨d, hd, sendOp_sameControl hsend⟩

theorem BlockEffect.sameIdentity (h : BlockEffect s t) : SameIdentity s t := by
  cases h with
  | held _ op rest _ t h => exact (execOp_effect h).sameIdentity
  | frame _ d _ _ t h =>
    obtain ⟨_, -, hcontrol, -⟩ := invokeHandler_sameControl h
    exact hcontrol.sameIdentity
  | byte _ _ _ _ b q _ t h => exact (selected_byteStep_effect h).sameIdentity
  | request _ _ _ op rest _ t h => exact h.sameIdentity
  | nothing => exact ⟨rfl, rfl⟩
  | flushed _ _ => exact ⟨rfl, rfl⟩
  | returned _ d a _ _ _ => exact ⟨rfl, rfl⟩
  | pollEnd _ _ _ _ => exact ⟨rfl, rfl⟩
  | scanEnd _ _ _ _ _ => exact ⟨rfl, rfl⟩

theorem StepEffect.sameIdentity {m : Option Move} (h : StepEffect s m t) (hm : ∀ n, m ≠ some (.rst n)) :
    SameIdentity s t := by
  cases h with
  | block m t h _ => exact h.sameIdentity
  | rst n => exact absurd rfl (hm n)
  | called op a n _ _ _ t h => exact h.sameIdentity
  | arrive b => exact ⟨rfl, rfl⟩
  | sent => exact ⟨rfl, rfl⟩
  | lost n => exact ⟨rfl, rfl⟩
  | writeError v => exact ⟨rfl, rfl⟩
  | invoked op => exact ⟨rfl, rfl⟩
  | calledInSend op a n _ _ _ => exact ⟨rfl, rfl⟩
  | returned a n _ _ _ => exact ⟨rfl, rfl⟩
  | returnedInSend a n _ _ _ => exact ⟨rfl, rfl⟩

end Identity

/-- Settles O50: of all effects of a step only that of reset writes them. -/
theorem nodeIdentityIsImmutable : Obligations.NodeIdentityIsImmutable := fun _ _ hr h =>
  (step_effect h).sameIdentity (head?_ne_rst hr)

/-! ## The framer while a frame is handed off -/

/-- The framer has done nothing and the poll goes on: the RX registers, `RXQ` and `poll_active` are the same. -/
def FramerIdle (s t : State) : Prop := t.rx = s.rx ∧ t.tp.rxq = s.tp.rxq ∧ t.pollActive = s.pollActive

section HandOff

variable {s t : State}

theorem SameControl.framerIdle (h : SameControl s t) (hq : t.tp.rxq = s.tp.rxq) : FramerIdle s t :=
  ⟨h.rx, hq, h.pollActive⟩

/-- Inside a poll only a `poll` could touch the framer, and that is refused (R102). -/
theorem OpEffect.framerIdle (h : OpEffect s t) (ha : s.pollActive = true) : FramerIdle s t := by
  cases h with
  | pollPersist hf _ => exact absurd (ha.symm.trans hf) (by decide)
  | pollDrop hf _ => exact absurd (ha.symm.trans hf) (by decide)
  | send id payload t h =>
    obtain ⟨hcontrol, hrxq⟩ := sendOp_sameControl h
    exact hcontrol.framerIdle hrxq
  | locked id h _ => exact ⟨rfl, rfl, rfl⟩
  | bound id h _ => exact ⟨rfl, rfl, rfl⟩
  | nodeId => exact ⟨rfl, rfl, rfl⟩

/-- The block turns to the poll and to the host only when no frame is handed off (R18). -/
theorem BlockEffect.framerIdle (h : BlockEffect s t) (hd : s.disp ≠ none) (ha : s.pollActive = true) :
    FramerIdle s t := by
  cases h with
  | held _ op rest _ t h => exact (execOp_effect h).framerIdle ha
  | frame _ d _ _ t h =>
    obtain ⟨_, -, hcontrol, hrxq⟩ := invokeHandler_sameControl h
    exact hcontrol.framerIdle hrxq
  | pollEnd _ hn _ _ => exact absurd hn hd
  | scanEnd _ hn _ _ _ => exact absurd hn hd
  | byte _ hn _ _ b q _ t h => exact absurd hn hd
  | request _ hn _ op rest _ t h => exact absurd hn hd
  | nothing => exact ⟨rfl, rfl, rfl⟩
  | flushed _ _ => exact ⟨rfl, rfl, rfl⟩
  | returned _ d a _ _ _ => exact ⟨rfl, rfl, rfl⟩

/-- While a frame is handed off nothing but an arriving byte touches what the framer works on. -/
theorem StepEffect.framerIdle_or_arrives {m : Option Move} (h : StepEffect s m t) (hm : ∀ n, m ≠ some (.rst n))
    (hd : s.disp ≠ none) (ha : s.pollActive = true) : FramerIdle s t ∨ ∃ b, t = byteArrives b s := by
  cases h with
  | block m t h _ => exact Or.inl (h.framerIdle hd ha)
  | arrive b => exact Or.inr ⟨b, rfl⟩
  | rst n => exact absurd rfl (hm n)
  | called op a n _ _ _ t h => exact Or.inl (h.framerIdle ha)
  | sent => exact Or.inl ⟨rfl, rfl, rfl⟩
  | lost n => exact Or.inl ⟨rfl, rfl, rfl⟩
  | writeError v => exact Or.inl ⟨rfl, rfl, rfl⟩
  | invoked op => exact Or.inl ⟨rfl, rfl, rfl⟩
  | calledInSend op a n _ _ _ => exact Or.inl ⟨rfl, rfl, rfl⟩
  | returned a n _ _ _ => exact Or.inl ⟨rfl, rfl, rfl⟩
  | returnedInSend a n _ _ _ => exact Or.inl ⟨rfl, rfl, rfl⟩

end HandOff

/-- Settles O54: a frame is handed off only inside a poll, and there every effect of a step leaves the framer idle or is
the arrival of a byte. -/
theorem theFramerIsHeldWhileAHandlerRuns : Obligations.TheFramerIsHeldWhileAHandlerRuns := by
  intro s t hi hd hr h
  have ha : s.pollActive = true := hi.poll.pollActive_of_disp hd
  rcases (step_effect h).framerIdle_or_arrives (head?_ne_rst hr) hd ha with ⟨hrx, hrxq, hpoll⟩ | ⟨b, rfl⟩
  · exact ⟨hrx, Or.inl hrxq, hpoll⟩
  · exact ⟨rfl, Or.inr ⟨b, rfl⟩, rfl⟩

end Sys2Proof.Machine
end

section
/-! SUPPORT. The two queues along a step: what a step reads from `RXQ`, what it writes to `TXQ` or takes off it, what
becomes of the held operations, and when a handler returns and a poll ends (R42, R44, R53 to R55, R97, R98). Each of the
three is said once for every step, and the statements about the transport are case analyses of them. -/

namespace Sys2Proof.Machine

/-- With no `send` in progress no flush is in progress and nothing is held. -/
theorem idle_of_not_sendInProgress {s : State} (h : ¬ sendInProgress s) : s.tx.phase = .idle ∧ s.held = [] := by
  obtain ⟨hphase, hheld⟩ := not_or.mp h
  refine ⟨?_, not_not.mp hheld⟩
  cases hp : s.tx.phase with
  | idle => rfl
  | flushing => exact absurd hp hphase

/-! ## What a step reads -/

/-- No byte is read or arrives, and the event history only grows. -/
structure ReadsNothing (s t : State) : Prop where
  rxq : t.tp.rxq = s.tp.rxq
  grows : ∃ es, t.events = s.events ++ es

theorem readsNothing_of_same {s t : State} (hrxq : t.tp.rxq = s.tp.rxq) (hevents : t.events = s.events) :
    ReadsNothing s t :=
  ⟨hrxq, [], by rw [hevents, List.append_nil]⟩

/-- What a step does to `RXQ` (R44, R48): a byte is read only when no `send` is in progress and no frame is handed off. -/
inductive ReceiveEffect (s t : State) : Prop where
  | nothing (h : ReadsNothing s t)
  | arrives (b : Byte) (ht : t = byteArrives b s)
  | reads (hn : ¬ sendInProgress s) (hd : s.disp = none) (b : Byte) (q : List Byte) (hq : s.tp.rxq = b :: q)
      (h : ReadsNothing (afterRead b q s) t)

section Receive

variable {s t : State}

theorem sendOp_readsNothing {id : Byte} {payload : List Byte} (h : sendOp id payload s = .next t) :
    ReadsNothing s t := by
  refine ⟨(sendOp_sameControl h).2, ?_⟩
  obtain ⟨t', ht', hcases⟩ := sendOp_cases id payload s
  obtain rfl : t' = t := Host.Outcome.next.inj (ht'.symm.trans h)
  rcases hcases with ⟨-, rfl⟩ | ⟨-, -, rfl⟩ | ⟨-, -, hsent, -, -, -⟩
  · exact (readsNothing_of_same rfl rfl).grows
  · exact ⟨[_], rfl⟩
  · exact ⟨[_], hsent.events⟩

theorem OpEffect.readsNothing (h : OpEffect s t) : ReadsNothing s t := by
  cases h with
  | send id payload t h => exact sendOp_readsNothing h
  | nodeId => exact readsNothing_of_same rfl rfl
  | pollPersist _ _ => exact ⟨rfl, [_], rfl⟩
  | pollDrop _ _ => exact ⟨rfl, [_], rfl⟩
  | locked id h _ => exact ⟨rfl, [_], rfl⟩
  | bound id h _ => exact ⟨rfl, [_], rfl⟩

/-- The byte has been read before the byte step is taken (R98 line 2). -/
theorem ByteEffect.readsNothing (h : ByteEffect s t) : ReadsNothing s t := by
  cases h with
  | parsed o r _ => exact ⟨rfl, [_], rfl⟩
  | handedOff o r d _ _ _ => exact ⟨rfl, [_, _], List.append_assoc _ _ _⟩

theorem invokeHandler_readsNothing {id : Byte} {payload : List Byte} (h : invokeHandler id payload s = .next t) :
    ReadsNothing s t := by
  obtain ⟨d, -, -, -, -, rfl | ⟨-, r, hsend⟩⟩ := invokeHandler_eq_next h
  · exact readsNothing_of_same rfl rfl
  · exact { sendOp_readsNothing hsend with }

theorem BlockEffect.receive (h : BlockEffect s t) : ReceiveEffect s t := by
  cases h with
  | byte hn hd _ _ b q hq t h => exact .reads hn hd b q hq (selected_byteStep_effect h).readsNothing
  | held _ op rest _ t h => exact .nothing { (execOp_effect h).readsNothing with }
  | frame _ d _ _ t h => exact .nothing (invokeHandler_readsNothing h)
  | request _ _ _ op rest _ t h => exact .nothing { h.readsNothing with }
  | nothing => exact .nothing (readsNothing_of_same rfl rfl)
  | scanEnd _ _ _ _ _ => exact .nothing (readsNothing_of_same rfl rfl)
  | flushed _ _ => exact .nothing ⟨rfl, [_], rfl⟩
  | returned _ d a _ _ _ => exact .nothing ⟨rfl, [_], rfl⟩
  | pollEnd _ _ _ _ => exact .nothing ⟨rfl, [_], rfl⟩

/-- Only the block's own step reads, and only the arrival of a byte adds to `RXQ` (R44). -/
theorem StepEffect.receive {m : Option Move} (h : StepEffect s m t) : ReceiveEffect s t := by
  cases h with
  | block m t h _ => exact h.receive
  | arrive b => exact .arrives b rfl
  | called op a n _ _ _ t h => exact .nothing h.readsNothing
  | returned a n _ _ _ => exact .nothing ⟨rfl, [_], rfl⟩
  | sent => exact .nothing (readsNothing_of_same rfl rfl)
  | lost n => exact .nothing (readsNothing_of_same rfl rfl)
  | writeError v => exact .nothing (readsNothing_of_same rfl rfl)
  | rst n => exact .nothing (readsNothing_of_same rfl rfl)
  | invoked op => exact .nothing (readsNothing_of_same rfl rfl)
  | calledInSend op a n _ _ _ => exact .nothing (readsNothing_of_same rfl rfl)
  | returnedInSend a n _ _ _ => exact .nothing (readsNothing_of_same rfl rfl)

end Receive

/-! ## What a step transmits -/

/-- The flush is neither begun nor over, `TXQ` is as it was, and no frame is written. -/
structure WritesNothing (s t : State) : Prop where
  phase : t.tx.phase = s.tx.phase
  txq : t.tp.txq = s.tp.txq
  events : ∃ es, t.events = s.events ++ es ∧ ∀ f, .write f ∉ es

/-- A payload of at most 60 bytes has been written as a frame while no flush was in progress (R106). -/
structure FrameWritten (id : Byte) (payload : List Byte) (s t : State) : Prop where
  idle : s.tx.phase = .idle
  bound : payload.length ≤ 60
  sent : FrameSent (encodeFrame id payload) s t

/-- What a step that is no reset does to the serializer, `TXQ` and the held operations (R53, R55, R110). -/
inductive TransmitEffect (s t : State) : Prop where
  | nothing (h : WritesNothing s t) (hheld : t.held = s.held)
  /-- An operation invoked during a `send` is held behind the others. -/
  | holds (op : HostOp) (h : WritesNothing s t) (hheld : t.held = s.held ++ [op])
  /-- The oldest held operation runs and writes nothing. -/
  | takes (op : HostOp) (hp : s.tx.phase = .idle) (h : WritesNothing s t) (hheld : s.held = op :: t.held)
  /-- A frame is written by a `send` that was held as the oldest operation, or while nothing was held. -/
  | writes (id : Byte) (payload : List Byte) (h : FrameWritten id payload s t)
      (hheld : (s.held = [] ∧ t.held = []) ∨ s.held = .send id payload :: t.held)
  | flushes (hp : s.tx.phase = .flushing) (hq : s.tp.txq = []) (hphase : t.tx.phase = .idle) (htxq : t.tp.txq = [])
      (hheld : t.held = s.held) (hevents : t.events = s.events ++ [.flushDone])
  /-- The transport takes bytes off `TXQ` at its head or at its tail. -/
  | drains (k : Nat) (hphase : t.tx.phase = s.tx.phase) (hheld : t.held = s.held) (hevents : t.events = s.events)
      (hq : t.tp.txq = (s.tp.txq.drop k).take t.tp.txq.length)

section Transmit

variable {s t : State}

/-- Where nothing that `WritesNothing` speaks of is touched, but for one event that is no write. -/
theorem writesNothing_logEvent {e : Event} (h : ∀ f, e ≠ .write f) : WritesNothing s (logEvent e s) :=
  ⟨rfl, rfl, [e], rfl, fun f hf => h f (List.mem_singleton.mp hf).symm⟩

theorem writesNothing_of_same (hphase : t.tx.phase = s.tx.phase) (htxq : t.tp.txq = s.tp.txq)
    (hevents : t.events = s.events) : WritesNothing s t :=
  ⟨hphase, htxq, [], by rw [hevents, List.append_nil], fun _ => List.not_mem_nil⟩

/-- A held or an invoked operation runs while no flush is in progress: only a `send` writes a frame, and none is held. -/
theorem execOp_transmit {op : HostOp} (hp : s.tx.phase = .idle) (h : exec op.instr s = .next t) :
    t.held = s.held ∧
      (WritesNothing s t ∨ ∃ id payload, op = .send id payload ∧ FrameWritten id payload s t) := by
  cases op with
  | send id payload =>
    obtain ⟨t', ht', hcases⟩ := sendOp_cases id payload s
    obtain rfl : t' = t := Host.Outcome.next.inj (ht'.symm.trans h)
    rcases hcases with ⟨hf, -⟩ | ⟨-, -, rfl⟩ | ⟨-, hb, hsent, honly, -, -⟩
    · exact absurd (hp.symm.trans hf) (by decide)
    · exact ⟨rfl, Or.inl (writesNothing_logEvent fun f hf => nomatch hf)⟩
    · exact ⟨honly.held, Or.inr ⟨id, payload, rfl, hp, hb, hsent⟩⟩
  | poll =>
    simp only [HostOp.instr, exec, execPoll] at h
    split at h
    · cases h
    · split at h <;> cases h <;> exact ⟨rfl, Or.inl ⟨rfl, rfl, [_], rfl, by simp⟩⟩
  | register id hd =>
    simp only [HostOp.instr, exec, execRegister] at h
    split at h <;> cases h <;> exact ⟨rfl, Or.inl ⟨rfl, rfl, [_], rfl, by simp⟩⟩
  | getNodeId =>
    cases h
    exact ⟨rfl, Or.inl (writesNothing_of_same rfl rfl rfl)⟩

/-- Each effect `OpEffect` lists is that of some operation. -/
theorem OpEffect.exists_op (h : OpEffect s t) : ∃ op : HostOp, exec op.instr s = .next t := by
  cases h with
  | pollPersist ha hp => exact ⟨.poll, by simp [HostOp.instr, exec, execPoll, ha, hp]⟩
  | pollDrop ha hp => exact ⟨.poll, by simp [HostOp.instr, exec, execPoll, ha, hp]⟩
  | send id payload t h => exact ⟨.send id payload, h⟩
  | locked id h hl => exact ⟨.register id h, if_pos hl⟩
  | bound id h hl => exact ⟨.register id h, if_neg hl⟩
  | nodeId => exact ⟨.getNodeId, rfl⟩

/-- An operation that begins with no `send` in progress. -/
theorem OpEffect.transmit (h : OpEffect s t) (hn : ¬ sendInProgress s) : TransmitEffect s t := by
  obtain ⟨hp, hh⟩ := idle_of_not_sendInProgress hn
  obtain ⟨op, h⟩ := h.exists_op
  obtain ⟨hheld, hsilent | ⟨id, payload, -, hwritten⟩⟩ := execOp_transmit hp h
  · exact .nothing hsilent hheld
  · exact .writes id payload hwritten (Or.inl ⟨hh, hheld.trans hh⟩)

/-- Which handler runs and what the host has invoked is no matter of the transmit side. -/
theorem TransmitEffect.of_control {a : Option Dispatch} {ops : List HostOp}
    (h : TransmitEffect { s with active := a, hostReq := ops } t) : TransmitEffect s t := by
  cases h with
  | nothing h hheld => exact .nothing { h with } hheld
  | holds op h hheld => exact .holds op { h with } hheld
  | takes op hp h hheld => exact .takes op hp { h with } hheld
  | writes id payload h hheld => exact .writes id payload { h with sent := { h.sent with } } hheld
  | flushes hp hq hphase htxq hheld hevents => exact .flushes hp hq hphase htxq hheld hevents
  | drains k hphase hheld hevents hq => exact .drains k hphase hheld hevents hq

/-- The oldest held operation runs (R53, R55). -/
theorem transmit_of_heldOp {op : HostOp} {rest : List HostOp} (hp : s.tx.phase = .idle) (hh : s.held = op :: rest)
    (h : exec op.instr { s with held := rest } = .next t) : TransmitEffect s t := by
  obtain ⟨hheld, hcases⟩ := execOp_transmit (s := { s with held := rest }) hp h
  obtain rfl : t.held = rest := hheld
  rcases hcases with hsilent | ⟨id, payload, rfl, hwritten⟩
  · exact .takes op hp { hsilent with } hh
  · exact .writes id payload { hwritten with sent := { hwritten.sent with } } (Or.inr hh)

/-- The handshake responder answers as its own `send` would (R119), and a user handler writes nothing when it is
invoked. -/
theorem invokeHandler_transmit {id : Byte} {payload : List Byte} (hn : ¬ sendInProgress s)
    (h : invokeHandler id payload s = .next t) : TransmitEffect s t := by
  obtain ⟨d, -, -, -, -, rfl | ⟨-, r, hsend⟩⟩ := invokeHandler_eq_next h
  · exact .nothing (writesNothing_of_same rfl rfl rfl) rfl
  · have hreply : TransmitEffect { s with active := some d } t := (OpEffect.send _ _ t hsend).transmit hn
    exact hreply.of_control

/-- A byte step writes nothing to the transport and holds no operation. -/
theorem ByteEffect.writesNothing (h : ByteEffect s t) : WritesNothing s t ∧ t.held = s.held := by
  cases h with
  | parsed o r _ => exact ⟨⟨rfl, rfl, [_], rfl, by simp⟩, rfl⟩
  | handedOff o r d _ _ _ => exact ⟨⟨rfl, rfl, [_, _], List.append_assoc _ _ _, by simp⟩, rfl⟩

/-- What is read before a byte step is no write either. -/
theorem WritesNothing.of_afterRead {b : Byte} {q : List Byte} (h : WritesNothing (afterRead b q s) t) :
    WritesNothing s t := by
  obtain ⟨hphase, htxq, es, hevents, hes⟩ := h
  exact ⟨hphase, htxq, .read b :: es, by rw [hevents]; simp, by simp [hes]⟩

theorem BlockEffect.transmit (h : BlockEffect s t) : TransmitEffect s t := by
  cases h with
  | flushed hp hq => exact .flushes hp hq rfl hq rfl rfl
  | held hp op rest hh t h => exact transmit_of_heldOp hp hh h
  | frame hn d _ _ t h => exact invokeHandler_transmit hn h
  | byte _ _ _ _ b q _ t h =>
    obtain ⟨hsilent, hheld⟩ := (selected_byteStep_effect h).writesNothing
    exact .nothing hsilent.of_afterRead hheld
  | request hn _ _ op rest _ t h =>
    have hop : TransmitEffect { s with hostReq := rest } t := h.transmit hn
    exact hop.of_control
  | nothing => exact .nothing (writesNothing_of_same rfl rfl rfl) rfl
  | scanEnd _ _ _ _ _ => exact .nothing (writesNothing_of_same rfl rfl rfl) rfl
  | returned _ d a _ _ _ => exact .nothing ⟨rfl, rfl, [_], rfl, by simp⟩ rfl
  | pollEnd _ _ _ _ => exact .nothing ⟨rfl, rfl, [_], rfl, by simp⟩ rfl

/-- Operations are held by the running handler, and the transport takes bytes off `TXQ`; all else is the block's. -/
theorem StepEffect.transmit {m : Option Move} (h : StepEffect s m t) (hm : ∀ n, m ≠ some (.rst n)) :
    TransmitEffect s t := by
  cases h with
  | block m t h _ => exact h.transmit
  | rst n => exact absurd rfl (hm n)
  | called op a n _ _ hn t h => exact h.transmit hn
  | calledInSend op a n _ _ _ => exact .holds op (writesNothing_of_same rfl rfl rfl) rfl
  | sent => exact .drains 1 rfl rfl rfl (by simp)
  | lost n => exact .drains 0 rfl rfl rfl (by simp)
  | returned a n _ _ _ => exact .nothing ⟨rfl, rfl, [_], rfl, by simp⟩ rfl
  | arrive b => exact .nothing (writesNothing_of_same rfl rfl rfl) rfl
  | writeError v => exact .nothing (writesNothing_of_same rfl rfl rfl) rfl
  | invoked op => exact .nothing (writesNothing_of_same rfl rfl rfl) rfl
  | returnedInSend a n _ _ _ => exact .nothing (writesNothing_of_same rfl rfl rfl) rfl

end Transmit

/-! ## When a handler returns and a poll ends -/

/-- The hand-off is as it was, and a poll in progress goes on. -/
structure PollGoesOn (s t : State) : Prop where
  disp : t.disp = s.disp
  poll : s.pollActive = true → t.pollActive = true

/-- What a step that is no reset does to the hand-off and the poll: beyond letting both go on, a handler returns, or the
block does what it does with no frame handed off, and either only with no `send` in progress. -/
inductive HandOffEffect (s t : State) : Prop where
  | goesOn (h : PollGoesOn s t)
  | returned (hn : ¬ sendInProgress s) (ht : t = handlerReturned s)
  | unoccupied (hn : ¬ sendInProgress s) (hd : s.disp = none)

section HandOff

variable {s t : State}

theorem SameControl.pollGoesOn (h : SameControl s t) : PollGoesOn s t :=
  ⟨h.disp, h.pollActive.trans⟩

theorem OpEffect.pollGoesOn (h : OpEffect s t) : PollGoesOn s t := by
  cases h with
  | send id payload t h => exact (sendOp_sameControl h).1.pollGoesOn
  | pollPersist _ _ => exact ⟨rfl, fun _ => rfl⟩
  | pollDrop _ _ => exact ⟨rfl, fun _ => rfl⟩
  | locked i h _ => exact ⟨rfl, id⟩
  | bound i h _ => exact ⟨rfl, id⟩
  | nodeId => exact ⟨rfl, id⟩

theorem BlockEffect.handOff (h : BlockEffect s t) : HandOffEffect s t := by
  cases h with
  | returned hn d a _ _ _ => exact .returned hn rfl
  | pollEnd hn hd _ _ => exact .unoccupied hn hd
  | scanEnd hn hd _ _ _ => exact .unoccupied hn hd
  | byte hn hd _ _ b q _ t h => exact .unoccupied hn hd
  | request hn hd _ op rest _ t h => exact .unoccupied hn hd
  | held _ op rest _ t h => exact .goesOn { (execOp_effect h).pollGoesOn with }
  | frame _ d _ _ t h =>
    obtain ⟨_, -, hcontrol, -⟩ := invokeHandler_sameControl h
    exact .goesOn { hcontrol.pollGoesOn with }
  | nothing => exact .goesOn ⟨rfl, id⟩
  | flushed _ _ => exact .goesOn ⟨rfl, id⟩

theorem StepEffect.handOff {m : Option Move} (h : StepEffect s m t) (hm : ∀ n, m ≠ some (.rst n)) :
    HandOffEffect s t := by
  cases h with
  | block m t h _ => exact h.handOff
  | rst n => exact absurd rfl (hm n)
  | returned a n _ _ hn => exact .returned hn rfl
  | called op a n _ _ _ t h => exact .goesOn h.pollGoesOn
  | arrive b => exact .goesOn ⟨rfl, id⟩
  | sent => exact .goesOn ⟨rfl, id⟩
  | lost n => exact .goesOn ⟨rfl, id⟩
  | writeError v => exact .goesOn ⟨rfl, id⟩
  | invoked op => exact .goesOn ⟨rfl, id⟩
  | calledInSend op a n _ _ _ => exact .goesOn ⟨rfl, id⟩
  | returnedInSend a n _ _ _ => exact .goesOn ⟨rfl, id⟩

end HandOff

/-! ## The statements about the transport -/

section Transport

variable {s t : State}

/-- No step but reset leaves a byte in `TXQ` with no flush in progress (R42, R54). -/
theorem TransmitEffect.keeps_txq_empty (h : TransmitEffect s t) (hq : s.tx.phase = .idle → s.tp.txq = [])
    (hp : t.tx.phase = .idle) : t.tp.txq = [] := by
  cases h with
  | nothing h _ => rw [h.txq, hq (h.phase ▸ hp)]
  | holds op h _ => rw [h.txq, hq (h.phase ▸ hp)]
  | takes op hidle h _ => rw [h.txq, hq hidle]
  | writes id payload h _ => exact absurd (hp.symm.trans h.sent.phase) (by decide)
  | flushes _ _ _ htxq _ _ => exact htxq
  | drains k hphase _ _ hdrain => rw [hdrain, hq (hphase ▸ hp), List.drop_nil, List.take_nil]

/-- What is left of the head of a queue is not that queue. -/
theorem ReceiveEffect.read_of_head_gone {b : Byte} (h : ReceiveEffect s t) (hq : s.tp.rxq = b :: t.tp.rxq) :
    ¬ sendInProgress s ∧ s.disp = none := by
  have hlen : s.tp.rxq.length = t.tp.rxq.length + 1 := by rw [hq, List.length_cons]
  cases h with
  | reads hn hd _ _ _ _ => exact ⟨hn, hd⟩
  | nothing h =>
    rw [h.rxq] at hlen
    omega
  | arrives c ht =>
    subst ht
    simp at hlen
    omega

end Transport

/-- Settles O55: what is transmitted decides the first clause; a handler returns, a poll ends and a byte is read only with
no `send` in progress, and then `TXQ` is empty. -/
theorem repliesAreTransmittedBeforeThePollEnds : Obligations.RepliesAreTransmittedBeforeThePollEnds := by
  intro s t _ hq hr h
  have hdone : ¬ sendInProgress s → s.held = [] ∧ s.tp.txq = [] := fun hn =>
    have ⟨hphase, hheld⟩ := idle_of_not_sendInProgress hn
    ⟨hheld, hq hphase⟩
  have heffect := step_effect h
  have hm := head?_ne_rst hr
  refine ⟨(heffect.transmit hm).keeps_txq_empty hq, fun hd hd' => ?_, fun hp hp' => ?_, fun b hb => ?_⟩
  · cases heffect.handOff hm with
    | goesOn h => exact absurd (h.disp.symm.trans hd') hd
    | returned hn ht =>
      obtain ⟨hheld, htxq⟩ := hdone hn
      subst ht
      exact ⟨(idle_of_not_sendInProgress hn).1, hheld, htxq⟩
    | unoccupied _ hnone => exact absurd hnone hd
  · cases heffect.handOff hm with
    | goesOn h => exact absurd ((h.poll hp).symm.trans hp') (by decide)
    | returned _ ht =>
      subst ht
      exact absurd (hp.symm.trans hp') (by decide)
    | unoccupied hn hnone => exact ⟨hnone, hdone hn⟩
  · obtain ⟨hn, hnone⟩ := heffect.receive.read_of_head_gone hb
    exact ⟨hnone, hdone hn⟩

/-- What is not among the events appended is not among the new events. -/
theorem notMem_newEvents {s t : State} {e : Event} {es : List Event} (h : t.events = s.events ++ es) (he : e ∉ es) :
    e ∉ t.events.drop s.events.length := by
  rwa [h, List.drop_left]

/-- The held operations form a queue: one joins at the end, the oldest leaves, or nothing changes (R53, R55). -/
theorem TransmitEffect.held_queue {s t : State} (h : TransmitEffect s t) :
    t.held = s.held ∨ (∃ op, t.held = s.held ++ [op]) ∨ ∃ op, s.held = op :: t.held := by
  cases h with
  | nothing _ hheld => exact Or.inl hheld
  | holds op _ hheld => exact Or.inr (Or.inl ⟨op, hheld⟩)
  | takes op _ _ hheld => exact Or.inr (Or.inr ⟨op, hheld⟩)
  | writes id payload _ hheld =>
    rcases hheld with ⟨hs, ht⟩ | hs
    · exact Or.inl (ht.trans hs.symm)
    · exact Or.inr (Or.inr ⟨_, hs⟩)
  | flushes _ _ _ _ hheld _ => exact Or.inl hheld
  | drains _ _ hheld _ _ => exact Or.inl hheld

/-- A new write is that of the one effect that writes. -/
theorem TransmitEffect.frameWritten_of_write {s t : State} {f : List Byte} (h : TransmitEffect s t)
    (hf : .write f ∈ t.events.drop s.events.length) :
    ∃ id payload, payload.length ≤ 60 ∧ f = encodeFrame id payload ∧
      (s.held = [] ∨ s.held = .send id payload :: t.held) := by
  have hsilent : WritesNothing s t → False := fun ⟨_, _, _, hes, hno⟩ => notMem_newEvents hes (hno f) hf
  cases h with
  | nothing h _ => exact (hsilent h).elim
  | holds _ h _ => exact (hsilent h).elim
  | takes _ _ h _ => exact (hsilent h).elim
  | writes id payload h hheld =>
    rw [h.sent.events, List.drop_left] at hf
    exact ⟨id, payload, h.bound, by simpa using hf, hheld.imp_left And.left⟩
  | flushes _ _ _ _ _ hevents => exact absurd hf (notMem_newEvents hevents (by simp))
  | drains _ _ _ hevents _ => exact absurd hf (by simp [hevents])

/-- Settles O25: the held operations are a queue, and the one effect that writes takes the oldest. -/
theorem heldOperationsRunInOrder : Obligations.HeldOperationsRunInOrder := by
  intro s t hr h
  have heffect := (step_effect h).transmit (head?_ne_rst hr)
  refine ⟨heffect.held_queue, fun f hne hf => ?_⟩
  obtain ⟨id, payload, hbound, hframe, hnil | holdest⟩ := heffect.frameWritten_of_write hf
  · exact absurd hnil hne
  · exact ⟨id, payload, hbound, hframe, holdest⟩

theorem turn_of_flushing {s : State} (h : s.tx.phase = .flushing) : turn s = .flush := by
  simp only [turn, h]

/-- While a flush is in progress the block's own step is the flush (R42). -/
theorem blockStep_of_flushing {s : State} (h : s.tx.phase = .flushing) : blockStep s = .next (flushStep s) := by
  simp only [blockStep, turn_of_flushing h]

/-- A flush goes on while `TXQ` holds a byte, and nothing is added to `TXQ` meanwhile (R42, R53). -/
theorem TransmitEffect.txq_shrinks {s t : State} (h : TransmitEffect s t) (hp : s.tx.phase = .flushing) :
    (t.tx.phase = .idle → s.tp.txq = []) ∧ ∃ k, t.tp.txq = (s.tp.txq.drop k).take t.tp.txq.length := by
  have hgoes_on : t.tx.phase = s.tx.phase → t.tx.phase = .idle → s.tp.txq = [] := fun h hidle =>
    absurd (hidle.symm.trans (h.trans hp)) (by decide)
  have hsilent : WritesNothing s t →
      (t.tx.phase = .idle → s.tp.txq = []) ∧ ∃ k, t.tp.txq = (s.tp.txq.drop k).take t.tp.txq.length := fun h =>
    ⟨hgoes_on h.phase, 0, by rw [List.drop_zero, h.txq, List.take_length]⟩
  cases h with
  | nothing h _ => exact hsilent h
  | holds _ h _ => exact hsilent h
  | takes _ hidle _ _ => exact absurd (hidle.symm.trans hp) (by decide)
  | writes _ _ h _ => exact absurd (h.idle.symm.trans hp) (by decide)
  | flushes _ hq _ htxq _ _ => exact ⟨fun _ => hq, 0, by simp [htxq]⟩
  | drains k hphase _ _ hdrain => exact ⟨hgoes_on hphase, k, hdrain⟩

/-- Settles O27: the block's own step is the flush, and of the other steps none adds to `TXQ`. -/
theorem flushEndsOnlyOnAnEmptyQueue : Obligations.FlushEndsOnlyOnAnEmptyQueue := by
  refine ⟨fun s hs hp hq => ?_, fun s hs hp hq => ?_, fun s t hp hr h => ?_⟩
  · rw [step_of_sched_nil hs, blockStep_of_flushing hp, flushStep_waits hq]
  · rw [step_of_sched_nil hs, blockStep_of_flushing hp, flushStep_empty hq]
    rfl
  · exact ((step_effect h).transmit (head?_ne_rst hr)).txq_shrinks hp

/-- Settles O53: by what a step reads. -/
theorem receivedBytesAreReadInOrder : Obligations.ReceivedBytesAreReadInOrder := by
  intro s t h
  cases (step_effect h).receive with
  | nothing h => exact Or.inl h.rxq
  | arrives b ht =>
    subst ht
    exact Or.inr (Or.inl ⟨b, rfl⟩)
  | reads _ _ b q hq h =>
    obtain ⟨hrxq, es, hes⟩ := h
    obtain rfl : t.tp.rxq = q := hrxq
    exact Or.inr (Or.inr ⟨b, es, hq, by simpa using hes⟩)

/-- Settles O56: by what a step reads; the read itself is an event. -/
theorem theEventHistoryOnlyGrows : Obligations.TheEventHistoryOnlyGrows := by
  intro s t h
  cases (step_effect h).receive with
  | nothing h => exact h.grows
  | arrives b ht =>
    subst ht
    exact ⟨[], (List.append_nil _).symm⟩
  | reads _ _ b q _ h =>
    obtain ⟨-, es, hes⟩ := h
    exact ⟨.read b :: es, by simpa using hes⟩

end Sys2Proof.Machine
end

section
/-! SUPPORT. The block's own step case by case while a frame is handed off, and what a running handler does during a
`send` of its own (R54, R55, R97, R98; logs 17 and 18). With these a handshake query is followed to the end of its poll. -/

namespace Sys2Proof.Machine

/-! ## The agents' moves -/

/-- What a running handler invokes during a `send` is held (R55). -/
theorem handlerInvokes_held {s : State} {tag : Nat} (op : HostOp) (h : runningHandler s = some tag)
    (hi : sendInProgress s) : handlerInvokes op s = .next { s with held := s.held ++ [op] } := by
  simp only [handlerInvokes, h, if_pos hi]

/-- A running handler that returns during a `send` has its return noted (R106). -/
theorem handlerReturns_noted {s : State} {tag : Nat} (h : runningHandler s = some tag) (hi : sendInProgress s) :
    handlerReturns s = .next { s with handlerReturning := true } := by
  simp only [handlerReturns, h, if_pos hi]

/-- Settles O46: each is one move of the schedule. -/
theorem theTransportMoves : Obligations.TheTransportMoves := by
  refine fun s ms => ⟨fun b hs => ?_, fun b q hs hq => ?_⟩
  · rw [step_of_sched_cons hs]
    rfl
  · rw [step_of_sched_cons hs]
    simp only [runMove, byteSent, hq, List.tail_cons]

/-! ## The block's own step -/

section OwnStep

variable {s : State} {d a : Dispatch}

/-- A flush with nothing left in `TXQ` is over (R42; log 23). -/
theorem blockStep_of_flush_done (hp : s.tx.phase = .flushing) (hq : s.tp.txq = []) :
    blockStep s = .next (logEvent .flushDone { s with tx := { s.tx with phase := .idle } }) := by
  rw [blockStep_of_flushing hp, flushStep_empty hq]

/-- A frame handed off whose handler has not been invoked is the block's next step (R97). -/
theorem blockStep_of_handedOff (hp : s.tx.phase = .idle) (hh : s.held = []) (hd : s.disp = some d)
    (ha : s.active = none) : blockStep s = invokeHandler d.id d.payload s := by
  have hturn : turn s = .frame (frameInstr d.id d.payload) := by simp [turn, hp, hh, hd, ha]
  simp only [blockStep, hturn]
  exact exec_frameInstr d.id d.payload s

/-- The handshake responder returns when its reply has been transmitted (R54). -/
theorem blockStep_of_responder (hp : s.tx.phase = .idle) (hh : s.held = []) (hd : s.disp = some d)
    (ha : s.active = some a) (hr : a.handler = .hs) : blockStep s = .next (handlerReturned s) := by
  have hturn : turn s = .responderReturn := by simp [turn, hp, hh, hd, ha, hr]
  simp only [blockStep, hturn]

/-- The noted return of a user handler is carried out when its `send` has returned (R97, R106). -/
theorem blockStep_of_handlerReturning {tag : Nat} (hp : s.tx.phase = .idle) (hh : s.held = []) (hd : s.disp = some d)
    (ha : s.active = some a) (hu : a.handler = .user tag) (hr : s.handlerReturning = true) :
    blockStep s = .next (handlerReturned s) := by
  have hturn : turn s = .handlerReturns := by simp [turn, hp, hh, hd, ha, hu, hr]
  simp only [blockStep, hturn]

/-- R98 line 4. -/
theorem blockStep_of_pollEnding (hp : s.tx.phase = .idle) (hh : s.held = []) (hd : s.disp = none)
    (ha : s.pollActive = true) (he : s.pollEnding = true) : blockStep s = .next (pollEnd s) := by
  have hturn : turn s = .pollEnd := by simp [turn, hp, hh, hd, ha, he]
  simp only [blockStep, hturn]

end OwnStep

/-- Settles O42: a handler that runs during a `send` has its operation held or its return noted, and the block turns to the
noted return. -/
theorem aHandlersActionsWaitForItsSend : Obligations.AHandlersActionsWaitForItsSend := by
  refine fun s ms d tag ha hu => ⟨fun op hs hr hi => ?_, fun hs hr hi => ?_, fun hs hd hr hp hh => ?_⟩
  · have hrun : runningHandler { s with sched := ms } = some tag := runningHandler_of_active ha hu hr
    rw [step_of_sched_cons hs, runMove, handlerInvokes_held op hrun hi]
  · have hrun : runningHandler { s with sched := ms } = some tag := runningHandler_of_active ha hu hr
    rw [step_of_sched_cons hs, runMove, handlerReturns_noted hrun hi]
  · rw [step_of_sched_nil hs, blockStep_of_handlerReturning hp hh hd ha hu hr]
    rfl

/-! ## Runs -/

theorem steps_succ (k : Nat) (s : State) : steps (k + 1) s = andThen (step s) (steps k) := rfl

/-- A run is its first part and then the rest. -/
theorem steps_add (j k : Nat) (s : State) : steps (j + k) s = andThen (steps j s) (steps k) := by
  induction j generalizing s with
  | zero => rw [Nat.zero_add]; rfl
  | succ j ih =>
    rw [Nat.add_right_comm, steps_succ, steps_succ]
    cases step s with
    | next t => exact ih t
    | fault f => rfl
    | refused r => rfl

/-- A scheduled step of the block's own begins a run. -/
theorem steps_of_sched_block {s t : State} {ms : List Move} (k : Nat) (hs : s.sched = .block :: ms)
    (h : blockStep { s with sched := ms } = .next t) : steps (k + 1) s = steps k t := by
  rw [steps_succ, step_of_sched_cons hs, runMove, h, andThen_next]

/-- `k` transmissions in a row take the first `k` bytes off `TXQ` (R44; log 23 for an empty one). -/
theorem steps_of_sched_sent (k : Nat) (s : State) (ms : List Move) (hs : s.sched = List.replicate k .sent ++ ms) :
    steps k s = .next { s with sched := ms, tp := { s.tp with txq := s.tp.txq.drop k } } := by
  induction k generalizing s with
  | zero =>
    obtain rfl : s.sched = ms := hs
    rfl
  | succ k ih =>
    rw [steps_succ, step_of_sched_cons (ms := List.replicate k .sent ++ ms) hs, runMove, andThen_next, ih _ rfl]
    simp [byteSent, List.drop_tail]

/-! ## A query and its reply -/

section Query

variable {s : State} {d : Dispatch} {p : Byte} {rest : List Byte}

/-- The responder answers a payload with one frame under the reserved identifier (R119). -/
theorem respond_writes_reply (p : Byte) (rest : List Byte) (hp : s.tx.phase = .idle) :
    ∃ t, respond (p :: rest) s = .next t ∧ FrameSent (encodeFrame Config.hsId [replyByte s.nodeId p]) s t ∧
      OnlyTx s t ∧ t.active = s.active := by
  obtain ⟨t, ht, hsent, honly, hactive, -⟩ := serialise_spec Config.hsId [replyByte s.nodeId p] s (by simp)
  exact ⟨t, (sendOp_sent Config.hsId hp (by simp)).trans ht, hsent, honly, hactive⟩

/-- The block's own step hands a query to the responder, whose reply is written (R97, R119). -/
theorem blockStep_answers_query (hp : s.tx.phase = .idle) (hh : s.held = []) (hd : s.disp = some d)
    (ha : s.active = none) (hr : d.handler = .hs) (hq : d.payload = p :: rest) :
    ∃ t, blockStep s = .next t ∧ FrameSent (encodeFrame Config.hsId [replyByte s.nodeId p]) s t ∧ OnlyTx s t ∧
      t.active = some d := by
  obtain ⟨t, ht, hsent, honly, hactive⟩ := respond_writes_reply (s := { s with active := some d }) p rest hp
  refine ⟨t, ?_, { hsent with }, { honly with }, hactive⟩
  rw [blockStep_of_handedOff hp hh hd ha, ← ht, ← hq]
  simp [invokeHandler, hd, ha, hr]

/-- With the reply transmitted, three steps of the block's own end the flush, the responder's run and the poll (R54, R98
line 4). -/
theorem steps_end_poll_after_reply {ms : List Move} (hs : s.sched = .block :: .block :: .block :: ms)
    (hp : s.tx.phase = .flushing) (hq : s.tp.txq = []) (hh : s.held = []) (hd : s.disp = some d)
    (ha : s.active = some d) (hr : d.handler = .hs) (hpoll : s.pollActive = true) :
    steps 3 s = .next (pollEnd (handlerReturned (logEvent .flushDone
      { s with tx := { s.tx with phase := .idle }, sched := ms }))) := by
  calc
    steps 3 s = steps 2 (logEvent .flushDone
        { s with tx := { s.tx with phase := .idle }, sched := .block :: .block :: ms }) :=
      steps_of_sched_block 2 hs (blockStep_of_flush_done hp hq)
    _ = steps 1 (handlerReturned (logEvent .flushDone
        { s with tx := { s.tx with phase := .idle }, sched := .block :: ms })) :=
      steps_of_sched_block 1 rfl (blockStep_of_responder rfl hh hd ha hr)
    _ = .next (pollEnd (handlerReturned (logEvent .flushDone
        { s with tx := { s.tx with phase := .idle }, sched := ms }))) :=
      steps_of_sched_block 0 rfl (blockStep_of_pollEnding rfl hh rfl hpoll rfl)

end Query

/-- Settles O34: one step answers, five transmit the reply, and three end the flush, the responder's run and the poll. -/
theorem aQueryIsAnsweredBeforeThePollEnds : Obligations.AQueryIsAnsweredBeforeThePollEnds := by
  intro p rest s ms hd ha hp hh hq hpoll hs
  obtain ⟨t, ht, hsent, honly, hactive⟩ := blockStep_answers_query
    (s := { s with sched := List.replicate 5 .sent ++ .block :: .block :: .block :: ms }) hp hh hd ha rfl rfl
  have hreply : t.tp.txq.drop 5 = [] := by
    rw [hsent.txq, List.drop_eq_nil_iff]
    simp [hq]
  have hend := steps_end_poll_after_reply (ms := ms)
    (s := { t with sched := .block :: .block :: .block :: ms, tp := { t.tp with txq := t.tp.txq.drop 5 } })
    rfl hsent.phase hreply (honly.held.trans hh) (honly.disp.trans hd) hactive rfl (honly.pollActive.trans hpoll)
  have hrun := calc
    steps 9 s = steps (5 + 3) t := steps_of_sched_block 8 hs ht
    _ = andThen (steps 5 t) (steps 3) := steps_add 5 3 t
    _ = _ := congrArg (andThen · (steps 3)) (steps_of_sched_sent 5 t _ honly.sched)
    _ = _ := hend
  exact ⟨_, hrun, rfl, rfl, rfl, rfl, hreply, honly.rxq, honly.rx, honly.reg, rfl,
    by simp [pollEnd, handlerReturned, hsent.events, replyByte]⟩

end Sys2Proof.Machine
end

section
/-! SUPPORT. The frame format and its decoder (R60 to R69, R75): the encoder's bytes field by field, a received frame's
instruction as one function of its identifier and payload, and the decoder inverse to the encoder both ways. -/

namespace Sys2Proof

/-! ## The encoder -/

/-- A length byte as the encoder makes it reads back as the length of the frame (R61). -/
theorem toNat_lengthByte {n : Nat} (h : n ≤ 60) : (BitVec.ofNat 8 (n + 4)).toNat = n + 4 :=
  Nat.mod_eq_of_lt (by omega)

/-- Bytes with the frame's fields in their places are the encoder's (R63, R64). -/
theorem eq_encodeFrame {b id : Byte} {payload : List Byte} (h : b.toNat = payload.length + 4) :
    Config.sync :: b :: id :: (payload ++ [xorSum (Config.sync :: b :: id :: payload)]) = encodeFrame id payload := by
  have hb : b = BitVec.ofNat 8 (payload.length + 4) := by rw [← h, BitVec.ofNat_toNat, BitVec.setWidth_eq]
  rw [hb, encodeFrame_eq]

/-- All bytes but the checksum. -/
theorem encodeFrame_dropLast (id : Byte) (payload : List Byte) :
    (encodeFrame id payload).dropLast = Config.sync :: BitVec.ofNat 8 (payload.length + 4) :: id :: payload := by
  simp only [encodeFrame, List.dropLast_concat]
  rfl

/-- The payload stands between the identifier and the checksum. -/
theorem payload_of_encodeFrame (id : Byte) (payload : List Byte) :
    ((encodeFrame id payload).drop 3).dropLast = payload := by
  simp [encodeFrame_eq]

/-- Settles O3: each field is read off the frame as `encodeFrame_eq` lists it. -/
theorem frameFieldsStandWhereTheFormatPutsThem : Obligations.FrameFieldsStandWhereTheFormatPutsThem := by
  intro id payload hp
  have htake : (encodeFrame id payload).take (payload.length + 3) = (encodeFrame id payload).dropLast := by
    rw [List.dropLast_eq_take, encodeFrame_length]
    rfl
  refine ⟨encodeFrame_length id payload, ?_, ?_, ?_, fun k hk => ?_, ?_⟩
  · rw [encodeFrame_eq]; rfl
  · rw [encodeFrame_eq]
    exact congrArg some (toNat_lengthByte hp)
  · rw [encodeFrame_eq]; rfl
  · rw [encodeFrame_eq, Nat.add_comm 3 k]
    exact List.getElem?_append_left hk
  · rw [htake, encodeFrame_dropLast, encodeFrame_eq]
    exact List.getElem?_concat_length

/-- A well-formed frame has its fields in the encoder's places (R65). -/
theorem exists_encodeFrame_of_wellFormedFrame {s : List Byte} (h : wellFormedFrame s = true) :
    ∃ id payload, payload.length ≤ 60 ∧ s = encodeFrame id payload := by
  match s, h with
  | b0 :: b1 :: r, h =>
    simp only [wellFormedFrame, Bool.and_eq_true, decide_eq_true_eq] at h
    obtain ⟨⟨⟨⟨hmin, hsync⟩, -, hmax⟩, hsize⟩, hlast⟩ := h
    have hsum := List.dropLast_append_getLast? _ hlast
    match r, hmin with
    | id :: c :: q, _ =>
      obtain ⟨payload, hpayload⟩ : ∃ payload, payload = (c :: q).dropLast := ⟨_, rfl⟩
      have hl : payload.length = q.length := by simp [hpayload]
      have hf : (b0 :: b1 :: id :: c :: q).dropLast = Config.sync :: b1 :: id :: payload := by
        simp [hpayload, hsync]
      rw [hf] at hsum
      simp only [List.length_cons, Config.maxLen] at hsize hmax
      exact ⟨id, payload, by omega, hsum.symm.trans (eq_encodeFrame (by omega))⟩

/-- Settles O4: the encoder's frames are well-formed, and a well-formed frame is one of them. -/
theorem wellFormedFramesAreTheEncodedFrames : Obligations.WellFormedFramesAreTheEncodedFrames := by
  refine ⟨fun id payload hp => Machine.wellFormedFrame_encodeFrame id hp, fun s hs => ?_⟩
  obtain ⟨id, payload, hp, rfl⟩ := exists_encodeFrame_of_wellFormedFrame hs
  exact ⟨id, payload, hp, by rw [encodeFrame_eq]; rfl, (payload_of_encodeFrame id payload).symm, rfl⟩

/-! ## The instruction of a received frame -/

theorem frameInstr_user {id : Byte} (h : id ≠ Config.hsId) (payload : List Byte) :
    frameInstr id payload = .cmd id payload := if_neg h

theorem frameInstr_hsConfirm {p : Byte} (h : p ≠ Config.hsRequest) (rest : List Byte) :
    frameInstr Config.hsId (p :: rest) = .hsConfirm p rest := if_neg h

/-- What holds of the four received rows under their conditions (R67, R68) holds of every received frame's instruction. -/
theorem frameInstr_rows {motive : Byte → List Byte → Instr → Prop}
    (cmd : ∀ id payload, id ≠ Config.hsId → motive id payload (.cmd id payload))
    (hsEmpty : motive Config.hsId [] .hsEmpty)
    (hsReq : ∀ rest, motive Config.hsId (Config.hsRequest :: rest) (.hsReq rest))
    (hsConfirm : ∀ p rest, p ≠ Config.hsRequest → motive Config.hsId (p :: rest) (.hsConfirm p rest))
    (id : Byte) (payload : List Byte) : motive id payload (frameInstr id payload) := by
  by_cases hid : id = Config.hsId
  · subst hid
    cases payload with
    | nil => exact hsEmpty
    | cons p rest =>
      by_cases hp : p = Config.hsRequest
      · subst hp
        exact hsReq rest
      · rw [frameInstr_hsConfirm hp]
        exact hsConfirm p rest hp
  · rw [frameInstr_user hid]
    exact cmd id payload hid

/-- The instruction keeps the frame's identifier and payload (R66). -/
@[simp] theorem frameInstr_frame? (id : Byte) (payload : List Byte) :
    (frameInstr id payload).frame? = some (id, payload) :=
  frameInstr_rows (motive := fun id payload i => i.frame? = some (id, payload))
    (fun _ _ _ => rfl) rfl (fun _ => rfl) (fun _ _ _ => rfl) id payload

/-- The bytes of a received frame's instruction are the frame (R64). -/
@[simp] theorem encode_frameInstr (id : Byte) (payload : List Byte) :
    encode (frameInstr id payload) = .frame (encodeFrame id payload) :=
  frameInstr_rows (motive := fun id payload i => encode i = .frame (encodeFrame id payload))
    (fun _ _ _ => rfl) rfl (fun _ => rfl) (fun _ _ _ => rfl) id payload

/-- No received frame is one of the rows that are transmitted only (R69). -/
@[simp] theorem frameInstr_transmittedOnly (id : Byte) (payload : List Byte) :
    (frameInstr id payload).transmittedOnly = false :=
  frameInstr_rows (motive := fun _ _ i => i.transmittedOnly = false)
    (fun _ _ _ => rfl) rfl (fun _ => rfl) (fun _ _ _ => rfl) id payload

/-- A received frame's instruction is well-formed exactly when the payload is not too long (R75). -/
theorem frameInstr_wf (id : Byte) (payload : List Byte) :
    (frameInstr id payload).wf = true ↔ payload.length ≤ 60 :=
  frameInstr_rows (motive := fun _ payload i => i.wf = true ↔ payload.length ≤ 60)
    (fun _ _ hid => by simp only [Instr.wf, hid, ne_eq, not_false_eq_true, decide_true, Bool.true_and,
      decide_eq_true_eq]) (by simp [Instr.wf]) (fun _ => by simp [Instr.wf])
    (fun _ _ hp => by simp only [Instr.wf, hp, ne_eq, not_false_eq_true, decide_true, Bool.true_and, decide_eq_true_eq,
      List.length_cons]) id payload

/-- A well-formed received row is the instruction of its own frame. -/
theorem eq_frameInstr {i : Instr} {id : Byte} {payload : List Byte} (hw : i.wf = true)
    (ht : i.transmittedOnly = false) (hf : i.frame? = some (id, payload)) : i = frameInstr id payload := by
  cases i with
  | cmd id' payload' =>
    cases hf
    simp only [Instr.wf, Bool.and_eq_true, decide_eq_true_eq] at hw
    exact (frameInstr_user hw.1 payload).symm
  | hsReq rest => cases hf; rfl
  | hsConfirm c rest =>
    cases hf
    simp only [Instr.wf, Bool.and_eq_true, decide_eq_true_eq] at hw
    exact (frameInstr_hsConfirm hw.1 rest).symm
  | hsEmpty => cases hf; rfl
  | hsId _ => cases ht
  | hsOk => cases ht
  | hsErr => cases ht
  | rxSync _ => cases hf
  | rxLen _ => cases hf
  | rxId _ => cases hf
  | rxAcc _ => cases hf
  | poll => cases hf
  | send _ _ => cases hf
  | register _ _ => cases hf
  | getNodeId => cases hf

/-! ## The decoder -/

/-- With a legal length byte and as many bytes as it asks for, only the checksum is left to decide (R73, R131). -/
theorem decodeFrame_whole {b : Byte} (id c : Byte) {payload : List Byte} (rest : List Byte)
    (hb : b.toNat = payload.length + 4) (h : payload.length ≤ 60) :
    decodeFrame (Config.sync :: b :: id :: (payload ++ c :: rest)) =
      if c = xorSum (Config.sync :: b :: id :: payload) then .ok (frameInstr id payload) rest
      else .bad (.checksumMismatch (xorSum (Config.sync :: b :: id :: payload)) c) := by
  have hlegal : ¬ (b.toNat < Config.minLen ∨ Config.maxLen < b.toNat) := by
    simp only [hb, Config.minLen, Config.maxLen]
    omega
  have hn : b.toNat - Config.overhead = payload.length := by rw [hb, Nat.add_sub_cancel]
  simp only [decodeFrame, ne_eq, not_true_eq_false, if_false, if_neg hlegal, hn, List.drop_left, List.take_left,
    List.cons_append, List.nil_append]

/-- The decoder takes one encoded frame off the front of the bytes (R66, R75). -/
theorem decodeFrame_encodeFrame (id : Byte) {payload : List Byte} (rest : List Byte) (h : payload.length ≤ 60) :
    decodeFrame (encodeFrame id payload ++ rest) = .ok (frameInstr id payload) rest := by
  rw [encodeFrame_eq]
  simp only [List.cons_append, List.append_assoc, List.nil_append]
  rw [decodeFrame_whole _ _ _ (toNat_lengthByte h) h, if_pos rfl]

/-- The decoder accepts nothing but an encoded frame, and answers that frame's instruction (R65, R74). -/
theorem decodeFrame_eq_ok {bs rest : List Byte} {i : Instr} (h : decodeFrame bs = .ok i rest) :
    ∃ id payload, payload.length ≤ 60 ∧ i = frameInstr id payload ∧ bs = encodeFrame id payload ++ rest := by
  revert h
  fun_cases decodeFrame bs with
  | case7 b0 hsync b1 hlegal id r n q sum hrest =>
    intro h
    cases h
    obtain rfl : b0 = Config.sync := not_not.mp hsync
    have hn : b1.toNat = n + 4 ∧ n ≤ 60 := by
      simp only [n, Config.overhead, Config.minLen, Config.maxLen] at hlegal ⊢
      omega
    have hlen := congrArg List.length hrest
    simp only [List.length_drop, List.length_cons] at hlen
    have htake : (r.take n).length = n := List.length_take_of_le (by omega)
    refine ⟨id, r.take n, htake.le.trans hn.2, rfl, ?_⟩
    calc
      Config.sync :: b1 :: id :: r = Config.sync :: b1 :: id :: (r.take n ++ sum :: rest) := by
        rw [← hrest, List.take_append_drop]
      _ = Config.sync :: b1 :: id :: (r.take n ++ [sum]) ++ rest := by simp
      _ = encodeFrame id (r.take n) ++ rest := congrArg (· ++ rest) (eq_encodeFrame (htake.symm ▸ hn.1))
  | case1 | case2 | case3 | case4 | case5 | case6 | case8 => nofun

/-- Settles O6: a byte step and a host operation decode as they are; a received row is the instruction of its own frame,
which the decoder gives back. -/
theorem decodingAnEncodingGivesTheInstruction : Obligations.DecodingAnEncodingGivesTheInstruction := by
  refine ⟨fun i hw ht => ?_, fun id payload rest hp => decodeFrame_encodeFrame id rest hp⟩
  cases hf : i.frame? with
  | some p =>
    obtain rfl := eq_frameInstr hw ht hf
    rw [encode_frameInstr, decode]
    simpa using decodeFrame_encodeFrame p.1 [] ((frameInstr_wf _ _).mp hw)
  | none =>
    cases i with
    | rxSync b => rfl
    | rxLen b => rfl
    | rxId b => rfl
    | rxAcc b => rfl
    | poll => rfl
    | send id payload => rfl
    | register id h => rfl
    | getNodeId => rfl
    | cmd id payload => cases hf
    | hsReq rest => cases hf
    | hsConfirm c rest => cases hf
    | hsEmpty => cases hf
    | hsId node => cases hf
    | hsOk => cases hf
    | hsErr => cases hf

/-- Settles O7: the accepted bytes begin with the frame whose instruction is answered. -/
theorem acceptedBytesAreTheEncoding : Obligations.AcceptedBytesAreTheEncoding := by
  intro bs rest i h
  obtain ⟨id, payload, hp, rfl, rfl⟩ := decodeFrame_eq_ok h
  exact ⟨(frameInstr_wf id payload).mpr hp, frameInstr_transmittedOnly id payload, _, encode_frameInstr id payload, rfl⟩

/-- The bytes of a frame with one payload byte decode to that frame's instruction. -/
theorem decode_oneByteFrame (id b : Byte) :
    decode (.frame (encodeFrame id [b])) = .ok (frameInstr id [b]) [] := by
  rw [decode, ← decodeFrame_encodeFrame id [] (payload := [b]) (by simp), List.append_nil]

/-- Settles O8: a reply's bytes are a handshake frame of one payload byte, whose row that byte selects. -/
theorem repliesReadAsQueries : Obligations.RepliesReadAsQueries := by
  refine ⟨fun n => ?_, decode_oneByteFrame Config.hsId Config.hsOk, decode_oneByteFrame Config.hsId Config.hsError⟩
  rw [encode, decode_oneByteFrame]
  rfl

/-- Settles O9: the nine words are evaluated. -/
theorem sampleWordsDecode : Obligations.SampleWordsDecode := by
  refine ⟨?_, ?_, ?_, ?_, ?_, ?_, ?_, ?_, ?_⟩ <;> rfl

end Sys2Proof
end

section
/-! SUPPORT. A frame read by the framer byte by byte (R66, R87 to R92): what is there after each consumed byte, and what the
last byte does; and the bytes that begin no frame (R70). -/

namespace Sys2Proof.Machine

/-- From `s₀` on the bytes `f` of one frame have been consumed: they are in flight, with the length and the handler that
they name, and nothing else has changed. -/
structure InFrame (s₀ : State) (f : List Byte) (s : State) : Prop where
  good : RxInv s.rx
  bytes : inFlight s.rx = .next f
  len : s.rx.len = f[1]?.map BitVec.toNat
  handler : s.rx.handler = f[2]?.bind (resolve s₀.reg)
  only : OnlyRx s₀ s
  disp : s.disp = s₀.disp
  events : s.events = s₀.events ++ List.replicate f.length (.outcome .consumed)

section InFrame

variable {s₀ s : State} {f : List Byte} {b : Byte}

theorem InFrame.cnt (h : InFrame s₀ f s) : s.rx.cnt = f.length :=
  (bufSlice_eq_next.mp h.bytes).1.symm

theorem InFrame.cnt_lt (h : InFrame s₀ f s) : s.rx.cnt < 64 :=
  Nat.lt_succ_of_le h.good.bound

/-- R34 item 5 for the bytes that are there. -/
theorem InFrame.chk (h : InFrame s₀ f s) : s.rx.chk = xorSum f := by
  obtain ⟨bs, hbs, hchk⟩ := h.good.chk
  obtain rfl : bs = f := Host.Outcome.next.inj (hbs.symm.trans h.bytes)
  exact hchk

/-- In `AwaitSync` nothing is in flight. -/
theorem inFrame_nil (hi : RxInv s.rx) (hs : s.rx.state = .awaitSync) : InFrame s [] s := by
  have hc : s.rx.cnt = 0 := hi.sync.mp hs
  have hhandler : s.rx.handler = none := by simpa [hc] using hi.handler
  exact ⟨hi, by simp [inFlight, hc], hi.lenInvalid (by omega), hhandler, by constructor <;> rfl, rfl, by simp⟩

/-- A consumed byte joins the bytes in flight. -/
theorem InFrame.consumed (h : InFrame s₀ f s) {r : RxRegs} (hr : RxInv r) (hbuf : r.buf = tableSet s.rx.buf s.rx.cnt b)
    (hcnt : r.cnt = s.rx.cnt + 1) (hlen : r.len = (f ++ [b])[1]?.map BitVec.toNat)
    (hhandler : r.handler = (f ++ [b])[2]?.bind (resolve s₀.reg)) :
    InFrame s₀ (f ++ [b]) (logOutcome .consumed { s with rx := r }) where
  good := hr
  bytes := by
    simp only [inFlight, logOutcome_rx, hbuf, hcnt]
    exact bufSlice_store b h.cnt_lt h.bytes
  len := hlen
  handler := hhandler
  only := { h.only with }
  disp := h.disp
  events := by simp [h.events, List.replicate_succ']

/-- R88: the sync byte. -/
theorem InFrame.sync (h : InFrame s₀ [] s) :
    ∃ t, exec (decodeByteStep (rxStateCode s.rx.state) Config.sync) s = .next t ∧ InFrame s₀ [Config.sync] t := by
  have hs : s.rx.state = .awaitSync := h.good.sync.mpr h.cnt
  rw [selected_byteStep, hs]
  refine ⟨_, execRxSync_accept hs h.cnt_lt rfl, ?_⟩
  exact h.consumed (h.good.syncAccepted hs rfl) (by rw [h.cnt]; rfl) (by rw [h.cnt]; rfl) h.len h.handler

/-- R89: a legal length byte. -/
theorem InFrame.length {b₀ : Byte} (h : InFrame s₀ [b₀] s) (hb : lengthTest b) :
    ∃ t, exec (decodeByteStep (rxStateCode s.rx.state) b) s = .next t ∧ InFrame s₀ [b₀, b] t := by
  have hs : s.rx.state = .awaitLength := h.good.length.mpr h.cnt
  rw [selected_byteStep, hs]
  refine ⟨_, execRxLen_accept hs h.cnt_lt hb, ?_⟩
  exact h.consumed (h.good.lengthAccepted hs hb) (by rw [h.cnt]; rfl) (by rw [h.cnt]; rfl) rfl h.handler

/-- R90: an identifier with a handler. -/
theorem InFrame.identifier {b₀ b₁ : Byte} {hd : Handler} (h : InFrame s₀ [b₀, b₁] s) (hb : resolve s₀.reg b = some hd) :
    ∃ t, exec (decodeByteStep (rxStateCode s.rx.state) b) s = .next t ∧ InFrame s₀ [b₀, b₁, b] t := by
  have hs : s.rx.state = .awaitIdentifier := h.good.ident.mpr h.cnt
  rw [selected_byteStep, hs]
  refine ⟨_, execRxId_accept hs h.cnt_lt (h.only.reg ▸ hb), ?_⟩
  exact h.consumed (h.good.identifierAccepted hs hd) (by rw [h.cnt]; rfl) (by rw [h.cnt]; rfl) h.len hb.symm

/-- R91: a byte of the payload. -/
theorem InFrame.payloadByte {l : Nat} (h : InFrame s₀ f s) (hf : 3 ≤ f.length) (hl : f[1]?.map BitVec.toNat = some l)
    (hlt : f.length + 1 < l) :
    ∃ t, exec (decodeByteStep (rxStateCode s.rx.state) b) s = .next t ∧ InFrame s₀ (f ++ [b]) t := by
  have hlen : s.rx.len = some l := h.len.trans hl
  have hs : s.rx.state = .accumulatePayload := h.good.acc.mpr (h.cnt ▸ hf)
  have hmore : s.rx.cnt + 1 < l := h.cnt ▸ hlt
  rw [selected_byteStep, hs]
  refine ⟨_, execRxAcc_payload hs h.cnt_lt (readLen_valid hlen ▸ hmore), ?_⟩
  refine h.consumed (h.good.payloadAccepted hs hlen hmore) rfl rfl ?_ ?_
  · rw [List.getElem?_append_left (by omega)]
    exact h.len
  · rw [List.getElem?_append_left (by omega)]
    exact h.handler

end InFrame

/-! ## Runs of byte steps -/

@[simp] theorem feedBytes_nil (s : State) : feedBytes [] s = .next s := rfl

theorem feedBytes_cons {b : Byte} {s t : State} (bs : List Byte)
    (h : exec (decodeByteStep (rxStateCode s.rx.state) b) s = .next t) : feedBytes (b :: bs) s = feedBytes bs t := by
  rw [feedBytes, h, andThen_next]

theorem feedBytes_append {as : List Byte} {s t : State} (bs : List Byte) (h : feedBytes as s = .next t) :
    feedBytes (as ++ bs) s = feedBytes bs t := by
  induction as generalizing s with
  | nil =>
    cases h
    rfl
  | cons a as ih =>
    obtain ⟨u, hu, hrest⟩ := andThen_eq_next h
    rw [List.cons_append, feedBytes_cons _ hu, ih hrest]

/-- R70: a byte that is no sync byte where a frame should start is discarded. -/
theorem exec_noise {b : Byte} {s : State} (hs : s.rx.state = .awaitSync) (hc : s.rx.cnt = 0) (hb : b ≠ Config.sync) :
    exec (decodeByteStep (rxStateCode s.rx.state) b) s = .next (logOutcome (.syncError b) s) := by
  rw [selected_byteStep, hs]
  exact execRxSync_reject hs (by omega) hb

/-- Settles O21: by induction on the bytes, each of which leaves the framer in `AwaitSync`. -/
theorem noiseIsDiscardedByteByByte : Obligations.NoiseIsDiscardedByteByByte := by
  intro g
  induction g with
  | nil =>
    intro s _ _ _
    simp
  | cons b g ih =>
    intro s hs hc hg
    obtain ⟨hb, hg⟩ := List.forall_mem_cons.mp hg
    rw [feedBytes_cons g (exec_noise hs hc hb), ih (logOutcome (.syncError b) s) hs hc hg]
    simp [logOutcome, logEvent]

section Frame

variable {s₀ s : State} {f : List Byte} {b id : Byte} {hd : Handler} {payload : List Byte}

/-- Payload bytes are collected as long as the last byte is not among them (R91). -/
theorem InFrame.feed_payload {l : Nat} (bs : List Byte) (h : InFrame s₀ f s) (hf : 3 ≤ f.length)
    (hl : f[1]?.map BitVec.toNat = some l) (hlt : f.length + bs.length < l) :
    ∃ t, feedBytes bs s = .next t ∧ InFrame s₀ (f ++ bs) t := by
  induction bs generalizing f s with
  | nil => exact ⟨s, rfl, by rwa [List.append_nil]⟩
  | cons b bs ih =>
    rw [List.length_cons] at hlt
    obtain ⟨u, hu, hin⟩ := h.payloadByte (b := b) hf hl (by omega)
    obtain ⟨t, ht, hin⟩ := ih hin (by simp; omega) (by rwa [List.getElem?_append_left (by omega)]) (by simp; omega)
    exact ⟨t, (feedBytes_cons bs hu).trans ht, by simpa using hin⟩

/-- From `AwaitSync`, all bytes of a frame for a known identifier but the last are consumed. -/
theorem inFrame_of_feedBytes (hi : RxInv s.rx) (hs : s.rx.state = .awaitSync) (hb : b.toNat = payload.length + 4)
    (hp : payload.length ≤ 60) (hid : resolve s.reg id = some hd) :
    ∃ t, feedBytes (Config.sync :: b :: id :: payload) s = .next t ∧
      InFrame s (Config.sync :: b :: id :: payload) t := by
  have hlegal : lengthTest b := by simp only [lengthTest, Config.minLen, Config.maxLen]; omega
  obtain ⟨t₁, h₁, hin⟩ := (inFrame_nil hi hs).sync
  obtain ⟨t₂, h₂, hin⟩ := hin.length hlegal
  obtain ⟨t₃, h₃, hin⟩ := hin.identifier hid
  obtain ⟨t, ht, hin⟩ := hin.feed_payload payload (Nat.le_refl 3) (congrArg some hb) (by simp; omega)
  exact ⟨t, by rw [feedBytes_cons _ h₁, feedBytes_cons _ h₂, feedBytes_cons _ h₃, ht], hin⟩

/-- Storing the byte after those in flight leaves them readable. -/
theorem bufSlice_under_store {m : Memory} {n : Nat} {bs : List Byte} (b : Byte) (i : Nat)
    (h : bufSlice n m 0 n = .next bs) : bufSlice n (tableSet m n b) i (n - i) = .next (bs.drop i) := by
  obtain ⟨hl, hall⟩ := bufSlice_eq_next.mp h
  refine bufSlice_eq_next.mpr ⟨by simp [hl], fun j hj => ?_⟩
  obtain ⟨h64, -, hget⟩ := hall (i + j) (by omega)
  rw [Nat.zero_add] at h64 hget
  exact ⟨h64, by omega, by rw [tableGet_set_other _ _ (by omega), hget, List.getElem?_drop]⟩

/-- A slice that goes on has its first entry. -/
theorem bufLoad_of_bufSlice {valid : Nat} {m : Memory} {i n : Nat} {b : Byte} {bs : List Byte}
    (h : bufSlice valid m i n = .next (b :: bs)) : bufLoad valid m i = .next b := by
  obtain ⟨rfl, hall⟩ := bufSlice_eq_next.mp h
  obtain ⟨h64, hvalid, hget⟩ := hall 0 (Nat.succ_pos _)
  exact bufLoad_valid h64 hvalid hget

/-- The converse of `complete_eq_next` for a matching byte (R92). -/
theorem complete_of_match {l : Nat} (hb : s.rx.chk = b) (hl : s.rx.len = some l) (hh : s.rx.handler = some hd)
    (hid : bufLoad s.rx.cnt s.rx.buf 2 = .next id) (hp : bufSlice s.rx.cnt s.rx.buf 3 (l - 4) = .next payload) :
    complete b s = .next (dispatch id hd payload (logOutcome (.dispatched id hd payload) (rxReset s))) := by
  rw [complete, if_pos hb, hid, andThen_next, readLen_valid hl, hp, andThen_next, readHandler_valid hh]

/-- R92: the last byte, equal to the XOR of the bytes before it, hands the frame off. -/
theorem InFrame.dispatches (h : InFrame s₀ (Config.sync :: b :: id :: payload) s) (hb : b.toNat = payload.length + 4)
    (hid : resolve s₀.reg id = some hd) :
    exec (decodeByteStep (rxStateCode s.rx.state) (xorSum (Config.sync :: b :: id :: payload))) s =
      .next (dispatch id hd payload (logOutcome (.dispatched id hd payload) (rxReset { s with rx := { s.rx with
        buf := tableSet s.rx.buf s.rx.cnt (xorSum (Config.sync :: b :: id :: payload)) } }))) := by
  have hcnt : s.rx.cnt = payload.length + 3 := h.cnt
  have hs : s.rx.state = .accumulatePayload := h.good.acc.mpr (by omega)
  have hlen : s.rx.len = some (payload.length + 4) := h.len.trans (congrArg some hb)
  have hlast : ¬ s.rx.cnt + 1 < readLen s := by rw [readLen_valid hlen]; omega
  have hpayload := bufSlice_under_store (xorSum (Config.sync :: b :: id :: payload)) 3 h.bytes
  rw [show s.rx.cnt - 3 = payload.length + 4 - 4 by omega] at hpayload
  rw [selected_byteStep, hs]
  exact (execRxAcc_complete hs h.cnt_lt hlast).trans <| complete_of_match h.chk hlen (h.handler.trans hid)
    (bufLoad_of_bufSlice (bufSlice_under_store _ 2 h.bytes)) hpayload

end Frame

/-- Settles O19: all bytes but the last are consumed, and the last is the XOR of those before it. -/
theorem encodedFramesAreDispatched : Obligations.EncodedFramesAreDispatched := by
  intro s id hd payload hi hs hid hp
  have hb := toNat_lengthByte hp
  obtain ⟨t, ht, hin⟩ := inFrame_of_feedBytes hi hs hb hp hid
  have hfeed := calc
    feedBytes (encodeFrame id payload) s
        = feedBytes (Config.sync :: BitVec.ofNat 8 (payload.length + 4) :: id :: payload ++ [_]) s :=
      congrArg (feedBytes · s) (eq_encodeFrame hb).symm
    _ = feedBytes [_] t := feedBytes_append [_] ht
    _ = _ := feedBytes_cons [] (hin.dispatches hb hid)
  refine ⟨by simpa using decodeFrame_encodeFrame id [] hp, frameInstr_frame? id payload,
    _, [.outcome (.dispatched id hd payload), .dispatch id hd payload], hfeed, rfl, ?_, { hin.only with }, ?_,
    .refl _⟩
  · constructor <;> rfl
  · simp [dispatch, rxReset, hin.events]

end Sys2Proof.Machine
end

section
/-! SUPPORT. The handshake responder's replies (R68, R78, R119): a query is answered as its first payload byte says, and the
answer is one of the three reply rows. -/

namespace Sys2Proof.Machine

/-- A reply's five bytes (R78). -/
theorem encodeFrame_reply (r : Byte) : encodeFrame Config.hsId [r] = [0xAA, 0x05, 0xFF, r, 0x50 ^^^ r] := by
  have hsum : xorSum [0xAA, 0x05, 0xFF, r] = 0x50 ^^^ r := by
    simp [← BitVec.xor_assoc]
  rw [← hsum, encodeFrame_eq]
  rfl

/-- A reply is written in one write with the flush begun (R106). -/
theorem sendReply_sent {s : State} (r : Byte) (hp : s.tx.phase = .idle) :
    ∃ t, sendReply r s = .next t ∧ FrameSent (encodeFrame Config.hsId [r]) s t ∧ OnlyTx s t ∧ t.active = s.active := by
  obtain ⟨t, ht, hsent, honly, hactive, -⟩ := serialise_spec Config.hsId [r] s (by simp)
  exact ⟨t, (sendOp_sent Config.hsId hp (by simp)).trans ht, hsent, honly, hactive⟩

/-- Settles O26: each row sends its reply byte. -/
theorem replyRowsTransmitTheirFrames : Obligations.ReplyRowsTransmitTheirFrames := by
  intro n s hp
  have hrow (r : Byte) := sendReply_sent r hp
  simp only [encodeFrame_reply] at hrow
  exact ⟨hrow n, hrow Config.hsOk, hrow Config.hsError⟩

/-- The request test comes first, then the comparison with `NODE_ID` (R68, R119, R121). -/
theorem exec_replyRow (nodeId p : Byte) (s : State) :
    exec (if p = 0x00 then .hsId nodeId else if p = nodeId then .hsOk else .hsErr) s =
      sendReply (replyByte nodeId p) s := by
  unfold replyByte
  by_cases hreq : p = Config.hsRequest
  · rw [if_pos hreq, if_pos hreq]
    rfl
  · rw [if_neg hreq, if_neg hreq]
    by_cases hok : p = nodeId
    · rw [if_pos hok, if_pos hok]
      rfl
    · rw [if_neg hok, if_neg hok]
      rfl

/-- A query handed off to the responder has the meaning of the reply its first payload byte selects (R68, R119). -/
theorem exec_query {s : State} {p : Byte} {rest : List Byte}
    (hd : s.disp = some { id := 0xFF, handler := .hs, payload := p :: rest }) (ha : s.active = none) :
    exec (if p = 0x00 then .hsReq rest else .hsConfirm p rest) s =
      sendReply (replyByte s.nodeId p) { s with active := s.disp } := by
  have hrow : (if p = 0x00 then Instr.hsReq rest else .hsConfirm p rest) = frameInstr Config.hsId (p :: rest) := rfl
  rw [hrow, exec_frameInstr]
  simp only [invokeHandler, hd, ha, and_self, if_true, respond]

/-- Settles O31: the query and the row are the same reply. -/
theorem theResponderTransmitsAReplyRow : Obligations.TheResponderTransmitsAReplyRow := by
  intro p rest s hd ha
  rw [exec_query hd ha, exec_replyRow]

/-- Settles O30: the query is the reply of the state in which its handler has been invoked. -/
theorem handshakeQueriesAreAnswered : Obligations.HandshakeQueriesAreAnswered := by
  intro p rest s hd ha hp
  obtain ⟨t, ht, hsent, honly, hactive⟩ :=
    sendReply_sent (s := { s with active := s.disp }) (replyByte s.nodeId p) hp
  exact ⟨t, (exec_query hd ha).trans ht, { hsent with }, { honly with }, hactive⟩

end Sys2Proof.Machine
end

section
/-! SUPPORT. The algebra of the checksum (R80, R84): appended sequences, the bits, one changed byte, and the sum of a whole
frame. -/

namespace Sys2Proof

theorem xorSum_append (s t : List Byte) : xorSum (s ++ t) = xorSum s ^^^ xorSum t := by
  induction s with
  | nil => simp
  | cons b s ih => simp [ih, BitVec.xor_assoc]

/-- A set bit of the first element flips the bit of the sum and the parity of the count alike. -/
theorem getLsbD_xorSum_iff (s : List Byte) (k : Nat) :
    (xorSum s).getLsbD k = true ↔ (s.countP fun b => b.getLsbD k) % 2 = 1 := by
  induction s with
  | nil => simp
  | cons b s ih =>
    rw [xorSum_cons, BitVec.getLsbD_xor, List.countP_cons]
    cases b.getLsbD k with
    | false => simpa using ih
    | true =>
      rw [Bool.true_xor, Bool.not_eq_true', ← Bool.not_eq_true, ih, if_pos rfl]
      omega

/-- Settles O1: the append law and the parity of each bit, both by induction on the sequence. -/
theorem checksumBitsAreParities : Obligations.ChecksumBitsAreParities :=
  ⟨rfl, xorSum_append, getLsbD_xorSum_iff⟩

theorem xorSum_set (s : List Byte) (i : Nat) (hi : i < s.length) (v : Byte) :
    xorSum (s.set i v) = xorSum s ^^^ s[i] ^^^ v := by
  induction s generalizing i with
  | nil => cases hi
  | cons b s ih =>
    cases i with
    | zero => simp [BitVec.xor_comm b, BitVec.xor_comm v]
    | succ i =>
      rw [List.set_cons_succ, xorSum_cons, ih i (Nat.lt_of_succ_lt_succ hi), List.getElem_cons_succ, xorSum_cons]
      simp only [BitVec.xor_assoc]

theorem xorSum_set_ne (s : List Byte) (i : Nat) (hi : i < s.length) {v : Byte} (hv : v ≠ s[i]) :
    xorSum (s.set i v) ≠ xorSum s := by
  intro h
  have hsame : s[i] = v := by simpa [xorSum_set s i hi, BitVec.xor_assoc] using h
  exact hv hsame.symm

/-- Settles O2: the sum with the old byte taken out and the new one put in. -/
theorem oneChangedByteChangesTheChecksum : Obligations.OneChangedByteChangesTheChecksum :=
  fun s i hi v => ⟨xorSum_set s i hi v, xorSum_set_ne s i hi⟩

/-- A sequence sums to zero exactly when its last byte is the sum of those before it. -/
theorem xorSum_eq_zero_iff {s : List Byte} (h : s ≠ []) :
    xorSum s = 0x00 ↔ s.getLast? = some (xorSum s.dropLast) := by
  have hsplit : xorSum s = xorSum s.dropLast ^^^ s.getLast h := by
    rw [← xorSum_append_singleton, List.dropLast_concat_getLast]
  rw [hsplit, List.getLast?_eq_some_getLast h, Option.some_inj, eq_comm (a := s.getLast h)]
  exact BitVec.xor_eq_zero_iff

/-- Settles O5: the premises are the other tests of R65, so the checksum test is all that is left. -/
theorem wholeFrameSumsToZero : Obligations.WholeFrameSumsToZero := by
  intro s h0 h1 hmin hmax
  match s, h0, h1 with
  | b0 :: b1 :: r, h0, h1 =>
    have hsync : b0 = Config.sync := Option.some.inj h0
    have hlen : b1.toNat = (b0 :: b1 :: r).length := Option.some.inj h1
    rw [xorSum_eq_zero_iff (List.cons_ne_nil _ _)]
    simp only [wellFormedFrame, Bool.and_eq_true, decide_eq_true_eq]
    exact and_iff_right ⟨⟨⟨hmin, hsync⟩, hlen ▸ hmin, hlen ▸ hmax⟩, hlen.symm⟩

end Sys2Proof
end

section
/-! SUPPORT. A frame with a wrong checksum read by the framer byte by byte (R85, R127), and a frame with one payload byte
changed on the way. -/

namespace Sys2Proof.Machine

/-- R92, R127: a last byte that is not the XOR of the bytes before it discards the frame. -/
theorem InFrame.mismatches {s₀ s : State} {f : List Byte} {c : Byte} (h : InFrame s₀ f s) (hf : 3 ≤ f.length)
    (hl : f[1]?.map BitVec.toNat = some (f.length + 1)) (hc : xorSum f ≠ c) :
    exec (decodeByteStep (rxStateCode s.rx.state) c) s =
      .next (rxError (.checksumMismatch (xorSum f) c)
        { s with rx := { s.rx with buf := tableSet s.rx.buf s.rx.cnt c } }) := by
  have hs : s.rx.state = .accumulatePayload := h.good.acc.mpr (h.cnt ▸ hf)
  have hlast : ¬ s.rx.cnt + 1 < readLen s := by
    rw [readLen_valid (h.len.trans hl), h.cnt]
    exact Nat.lt_irrefl _
  rw [← h.chk] at hc ⊢
  rw [selected_byteStep, hs]
  exact (execRxAcc_complete hs h.cnt_lt hlast).trans (if_neg hc)

theorem encodeFrame_set_payload (id : Byte) {payload : List Byte} {k : Nat} (hk : k < payload.length) (v : Byte) :
    (encodeFrame id payload).set (3 + k) v =
      Config.sync :: BitVec.ofNat 8 (payload.length + 4) :: id :: payload.set k v ++
        [xorSum (encodeFrame id payload).dropLast] := by
  rw [encodeFrame_dropLast, encodeFrame_eq, Nat.add_comm 3 k]
  simp [hk]

/-- Settles O20: all bytes but the last are consumed, the changed one among them, and their XOR (R84 item 2) is not the
checksum of the frame that was sent. -/
theorem oneCorruptedPayloadByteIsDetected : Obligations.OneCorruptedPayloadByteIsDetected := by
  intro s id hd payload k v hi hs hid hp hk hv
  have hsize : (payload.set k v).length = payload.length := List.length_set
  have hb : (BitVec.ofNat 8 (payload.length + 4)).toNat = (payload.set k v).length + 4 := by
    rw [hsize, toNat_lengthByte hp]
  obtain ⟨t, ht, hin⟩ := inFrame_of_feedBytes hi hs hb (hsize ▸ hp) hid
  have hsum : xorSum (Config.sync :: BitVec.ofNat 8 (payload.length + 4) :: id :: payload.set k v) ≠
      xorSum (encodeFrame id payload).dropLast := by
    rw [encodeFrame_dropLast]
    exact xorSum_set_ne (Config.sync :: _ :: id :: payload) (k + 3) (Nat.add_lt_add_right hk 3) hv
  have hfeed := calc
    feedBytes ((encodeFrame id payload).set (3 + k) v) s
        = feedBytes (Config.sync :: BitVec.ofNat 8 (payload.length + 4) :: id :: payload.set k v ++ [_]) s :=
      congrArg (feedBytes · s) (encodeFrame_set_payload id hk v)
    _ = feedBytes [_] t := feedBytes_append [_] ht
    _ = _ := feedBytes_cons [] (hin.mismatches (Nat.le_add_left 3 _) (congrArg some hb) hsum)
  refine ⟨_, _, hfeed, hin.disp, ?_, hsum, ?_⟩
  · constructor <;> rfl
  · simp [rxError, hin.events]

end Sys2Proof.Machine
end

section
/-! SUPPORT. The byte steps, each with its frame (R88 to R91, R96, R124 to R127), and what the selected one does in a good
state of the RX registers: it reads nothing but them and the registry (R87), and hands off whole frames alone (R105). -/

namespace Sys2Proof.Machine

/-! ## What the effects leave -/

theorem sameOutside_refl (m : Memory) : SameOutside 0 0 m m := fun _ _ => rfl

theorem sameOutside_tableSet (m : Memory) (i : Nat) (b : Byte) : SameOutside i (i + 1) m (tableSet m i b) :=
  fun _ hj => tableGet_set_other m b (by omega)

theorem parserEmpty_rxResetRegs (r : RxRegs) : ParserEmpty (rxResetRegs r) := ⟨rfl, rfl, rfl, rfl, rfl⟩

theorem onlyRx_logOutcome (o : RxOutcome) (r : RxRegs) (s : State) : OnlyRx s (logOutcome o { s with rx := r }) := by
  constructor <;> rfl

theorem onlyRx_dispatch (id : Byte) (hd : Handler) (payload : List Byte) (o : RxOutcome) (r : RxRegs) (s : State) :
    OnlyRx s (dispatch id hd payload (logOutcome o { s with rx := r })) := by
  constructor <;> rfl

theorem ByteEffect.onlyRx {s t : State} (h : ByteEffect s t) : OnlyRx s t := by
  cases h with
  | parsed o r _ => exact onlyRx_logOutcome o r s
  | handedOff o r d _ _ _ => exact onlyRx_dispatch d.id d.handler d.payload o r s

/-! ## The bytes before the payload -/

/-- Settles O12: the two branches of the sync test. -/
theorem syncByteStep : Obligations.SyncByteStep := by
  intro b s hs hc
  have hlt : s.rx.cnt < 64 := by omega
  by_cases hb : b = 0xAA
  · refine ⟨_, execRxSync_accept hs hlt hb, onlyRx_logOutcome _ _ s, rfl, fun _ => ?_, fun hn => absurd hb hn⟩
    exact ⟨rfl, rfl, rfl, bufLoad_valid (by decide) Nat.one_pos (tableGet_set_same _ _ _), sameOutside_tableSet _ 0 b,
      rfl, rfl, rfl⟩
  · exact ⟨_, execRxSync_reject hs hlt hb, onlyRx_logOutcome _ s.rx s, rfl, fun h => absurd h hb,
      fun _ => ⟨rfl, rfl⟩⟩

/-- Settles O13: the two branches of the length test. -/
theorem lengthByteStep : Obligations.LengthByteStep := by
  intro b s hs hc
  have hlt : s.rx.cnt < 64 := by omega
  by_cases hb : lengthTest b
  · refine ⟨_, execRxLen_accept hs hlt hb, onlyRx_logOutcome _ _ s, rfl, fun _ => ?_, fun hn => absurd hb hn⟩
    exact ⟨rfl, rfl, rfl, rfl, tableGet_set_same _ _ _, sameOutside_tableSet _ 1 b, rfl, rfl⟩
  · exact ⟨_, execRxLen_reject hs hlt hb, onlyRx_logOutcome _ _ s, rfl, fun h => absurd h hb,
      fun _ => ⟨parserEmpty_rxResetRegs _, sameOutside_refl _, rfl⟩⟩

/-- Settles O14: by what the registry holds for the identifier. -/
theorem identifierByteStep : Obligations.IdentifierByteStep := by
  intro b s hs hc
  have hlt : s.rx.cnt < 64 := by omega
  cases hb : resolve s.reg b with
  | some hd =>
    refine ⟨_, execRxId_accept hs hlt hb, onlyRx_logOutcome _ _ s, rfl, fun h hh => ?_, nofun⟩
    exact ⟨rfl, rfl, rfl, hh, tableGet_set_same _ _ _, sameOutside_tableSet _ 2 b, rfl, rfl⟩
  | none =>
    exact ⟨_, execRxId_reject hs hlt hb, onlyRx_logOutcome _ _ s, rfl, nofun,
      fun _ => ⟨parserEmpty_rxResetRegs _, sameOutside_refl _, rfl⟩⟩

/-- Settles O16: the overrun is an error of whichever byte step is selected. -/
theorem overrunResetsTheParser : Obligations.OverrunResetsTheParser := fun _ s hc =>
  ⟨_, byteStep_overrun hc, parserEmpty_rxResetRegs _, sameOutside_refl _, rfl, onlyRx_logOutcome _ _ s, rfl⟩

/-! ## The payload and the last byte -/

/-- The header and the payload collected so far of a frame of length `l` for `id`, whose handler `hd` is latched; at least
one byte is still to come (R34 items 4 and 5). -/
structure Collecting (r : RxRegs) (l : Nat) (hd : Handler) (id : Byte) (payload : List Byte) : Prop where
  bytes : inFlight r = .next (Config.sync :: BitVec.ofNat 8 l :: id :: payload)
  len : r.len = some l
  handler : r.handler = some hd
  chk : r.chk = xorSum (Config.sync :: BitVec.ofNat 8 l :: id :: payload)
  cnt : r.cnt = payload.length + 3
  room : r.cnt + 1 ≤ l
  max : l ≤ 64

/-- In `AccumulatePayload` a good state holds the beginning of a frame. -/
theorem RxInv.collecting {r : RxRegs} (hi : RxInv r) (hs : r.state = .accumulatePayload) :
    ∃ l hd id payload, Collecting r l hd id payload := by
  have h3 : 3 ≤ r.cnt := hi.acc.mp hs
  obtain ⟨l, hlen, -, hmax, hsecond, hroom⟩ := hi.len (by omega)
  obtain ⟨hd, hhandler⟩ := Option.isSome_iff_exists.mp (hi.handler.mpr h3)
  obtain ⟨bs, hbs, hchk⟩ := hi.chk
  obtain ⟨hcnt, hall⟩ := bufSlice_eq_next.mp hbs
  match bs, hcnt with
  | b₀ :: b₁ :: id :: payload, hcnt =>
    have h₀ : some Config.sync = some b₀ := (hi.first (by omega)).symm.trans (hall 0 (by omega)).2.2
    have h₁ : some (BitVec.ofNat 8 l) = some b₁ := hsecond.symm.trans (hall 1 (by omega)).2.2
    cases h₀
    cases h₁
    exact ⟨l, hd, id, payload, hbs, hlen, hhandler, hchk, hcnt.symm, hroom, hmax⟩
  | [], hcnt | [_], hcnt | [_, _], hcnt => simp at hcnt; omega

section Collecting

variable {s : State} {l : Nat} {hd : Handler} {id b : Byte} {payload : List Byte}

theorem Collecting.cnt_lt (h : Collecting s.rx l hd id payload) : s.rx.cnt < 64 :=
  Nat.lt_of_lt_of_le h.room h.max

/-- R91: before the last byte. -/
theorem Collecting.collects (h : Collecting s.rx l hd id payload) (hs : s.rx.state = .accumulatePayload)
    (hl : s.rx.cnt + 1 < l) :
    execRxAcc b s = .next (logOutcome .consumed { s with rx := { s.rx with
      buf := tableSet s.rx.buf s.rx.cnt b, chk := chkAcc s.rx.chk b, cnt := s.rx.cnt + 1 } }) :=
  execRxAcc_payload hs h.cnt_lt (readLen_valid h.len ▸ hl)

/-- R91: the last byte completes the frame. -/
theorem Collecting.completes (h : Collecting s.rx l hd id payload) (hs : s.rx.state = .accumulatePayload)
    (hl : s.rx.cnt + 1 = l) :
    execRxAcc b s = complete b { s with rx := { s.rx with buf := tableSet s.rx.buf s.rx.cnt b } } :=
  execRxAcc_complete hs h.cnt_lt (readLen_valid h.len ▸ hl.not_lt)

/-- R92: a last byte that is the XOR of the bytes before it hands the frame off. -/
theorem Collecting.dispatches (h : Collecting s.rx l hd id payload) (hs : s.rx.state = .accumulatePayload)
    (hl : s.rx.cnt + 1 = l) (hb : s.rx.chk = b) :
    execRxAcc b s = .next (dispatch id hd payload (logOutcome (.dispatched id hd payload)
      { s with rx := rxResetRegs { s.rx with buf := tableSet s.rx.buf s.rx.cnt b } })) := by
  have hpayload := bufSlice_under_store b 3 h.bytes
  rw [show s.rx.cnt - 3 = l - 4 by omega] at hpayload
  exact (h.completes hs hl).trans <| complete_of_match hb h.len h.handler
    (bufLoad_of_bufSlice (bufSlice_under_store b 2 h.bytes)) hpayload

/-- R92, R127: any other last byte discards the frame. -/
theorem Collecting.mismatches (h : Collecting s.rx l hd id payload) (hs : s.rx.state = .accumulatePayload)
    (hl : s.rx.cnt + 1 = l) (hb : s.rx.chk ≠ b) :
    execRxAcc b s = .next (rxError (.checksumMismatch s.rx.chk b)
      { s with rx := { s.rx with buf := tableSet s.rx.buf s.rx.cnt b } }) :=
  (h.completes hs hl).trans (if_neg hb)

end Collecting

/-- Settles O15: the byte is collected, or completes the frame and is compared with the XOR of the bytes before it. -/
theorem accumulateByteStep : Obligations.AccumulateByteStep := by
  intro b s l bs hi hs hlen hbs
  obtain ⟨l', hd, id, payload, hf⟩ := hi.collecting hs
  obtain rfl : l' = l := Option.some.inj (hf.len.symm.trans hlen)
  obtain rfl := Host.Outcome.next.inj (hf.bytes.symm.trans hbs)
  rcases hf.room.lt_or_eq with hl | hl
  · refine ⟨_, hf.collects hs hl, onlyRx_logOutcome _ _ s, sameOutside_tableSet _ _ b, tableGet_set_same _ _ _,
      fun _ => ?_, fun he => absurd he hl.ne⟩
    exact ⟨rfl, hs, rfl, rfl, rfl, rfl, rfl⟩
  · by_cases hb : s.rx.chk = b
    · refine ⟨_, hf.dispatches hs hl hb, onlyRx_dispatch _ _ _ _ _ s, sameOutside_tableSet _ _ b,
        tableGet_set_same _ _ _, fun h => absurd hl h.ne, fun _ => ⟨parserEmpty_rxResetRegs _, fun _ => ?_,
        fun hn => absurd (hf.chk.symm.trans hb) hn⟩⟩
      refine ⟨id, hd, rfl, hf.handler, rfl, _, ?_, .refl _⟩
      simp
    · refine ⟨_, hf.mismatches hs hl hb, onlyRx_logOutcome _ _ s, sameOutside_tableSet _ _ b,
        tableGet_set_same _ _ _, fun h => absurd hl h.ne, fun _ => ⟨parserEmpty_rxResetRegs _,
        fun h => absurd (hf.chk.trans h) hb, fun _ => ⟨rfl, ?_⟩⟩⟩
      simp [hf.chk]

/-! ## Every byte step in a good state -/

section Selected

variable {s : State} {b : Byte}

theorem selected_of_awaitSync (hs : s.rx.state = .awaitSync) :
    exec (decodeByteStep (rxStateCode s.rx.state) b) s = execRxSync b s := by
  rw [selected_byteStep, hs]

theorem selected_of_awaitLength (hs : s.rx.state = .awaitLength) :
    exec (decodeByteStep (rxStateCode s.rx.state) b) s = execRxLen b s := by
  rw [selected_byteStep, hs]

theorem selected_of_awaitIdentifier (hs : s.rx.state = .awaitIdentifier) :
    exec (decodeByteStep (rxStateCode s.rx.state) b) s = execRxId b s := by
  rw [selected_byteStep, hs]

theorem selected_of_accumulatePayload (hs : s.rx.state = .accumulatePayload) :
    exec (decodeByteStep (rxStateCode s.rx.state) b) s = execRxAcc b s := by
  rw [selected_byteStep, hs]

end Selected

/-- What the selected byte step does with the byte `b` in every state with the RX registers `r` and the registry `reg`: it
writes the RX registers and is labelled, or `b` is the last byte of a whole frame, which it hands off. -/
inductive GoodByteStep (r : RxRegs) (reg : Table Handler) (b : Byte) : Prop where
  | parsed (o : RxOutcome) (r' : RxRegs)
      (h : ∀ u : State, u.rx = r → u.reg = reg →
        exec (decodeByteStep (rxStateCode u.rx.state) b) u = .next (logOutcome o { u with rx := r' }))
  | handedOff (l : Nat) (hd : Handler) (id : Byte) (payload : List Byte) (hf : Collecting r l hd id payload)
      (hl : r.cnt + 1 = l) (hb : r.chk = b) (o : RxOutcome) (r' : RxRegs)
      (h : ∀ u : State, u.rx = r → u.reg = reg → exec (decodeByteStep (rxStateCode u.rx.state) b) u =
        .next (dispatch id hd payload (logOutcome o { u with rx := r' })))

section GoodByteStep

variable {r : RxRegs} (reg : Table Handler) (b : Byte)

theorem goodByteStep_of_awaitSync (hc : r.cnt < 64) (hs : r.state = .awaitSync) : GoodByteStep r reg b := by
  by_cases hb : syncTest b
  · refine .parsed .consumed
      { r with buf := tableSet r.buf 0 b, chk := chkAcc r.chk b, cnt := 1, state := .awaitLength } ?_
    rintro u rfl -
    exact (selected_of_awaitSync hs).trans (execRxSync_accept hs hc hb)
  · refine .parsed (.syncError b) r ?_
    rintro u rfl -
    exact (selected_of_awaitSync hs).trans (execRxSync_reject hs hc hb)

theorem goodByteStep_of_awaitLength (hc : r.cnt < 64) (hs : r.state = .awaitLength) : GoodByteStep r reg b := by
  by_cases hb : lengthTest b
  · refine .parsed .consumed { r with
      buf := tableSet r.buf 1 b, chk := chkAcc r.chk b, len := some b.toNat, cnt := 2, state := .awaitIdentifier } ?_
    rintro u rfl -
    exact (selected_of_awaitLength hs).trans (execRxLen_accept hs hc hb)
  · refine .parsed (.lengthError b) (rxResetRegs r) ?_
    rintro u rfl -
    exact (selected_of_awaitLength hs).trans (execRxLen_reject hs hc hb)

theorem goodByteStep_of_awaitIdentifier (hc : r.cnt < 64) (hs : r.state = .awaitIdentifier) :
    GoodByteStep r reg b := by
  cases hb : resolve reg b with
  | some hd =>
    refine .parsed .consumed { r with
      buf := tableSet r.buf 2 b, chk := chkAcc r.chk b, handler := some hd, cnt := 3, state := .accumulatePayload } ?_
    rintro u rfl rfl
    exact (selected_of_awaitIdentifier hs).trans (execRxId_accept hs hc hb)
  | none =>
    refine .parsed (.unknownIdentifier b) (rxResetRegs r) ?_
    rintro u rfl rfl
    exact (selected_of_awaitIdentifier hs).trans (execRxId_reject hs hc hb)

theorem goodByteStep_of_accumulatePayload (hi : RxInv r) (hs : r.state = .accumulatePayload) :
    GoodByteStep r reg b := by
  obtain ⟨l, hd, id, payload, hf⟩ := hi.collecting hs
  rcases hf.room.lt_or_eq with hl | hl
  · refine .parsed .consumed
      { r with buf := tableSet r.buf r.cnt b, chk := chkAcc r.chk b, cnt := r.cnt + 1 } ?_
    rintro u rfl -
    exact (selected_of_accumulatePayload hs).trans (hf.collects hs hl)
  · by_cases hb : r.chk = b
    · refine .handedOff l hd id payload hf hl hb (.dispatched id hd payload)
        (rxResetRegs { r with buf := tableSet r.buf r.cnt b }) ?_
      rintro u rfl -
      exact (selected_of_accumulatePayload hs).trans (hf.dispatches hs hl hb)
    · refine .parsed (.checksumMismatch r.chk b) (rxResetRegs { r with buf := tableSet r.buf r.cnt b }) ?_
      rintro u rfl -
      exact (selected_of_accumulatePayload hs).trans (hf.mismatches hs hl hb)

theorem RxInv.goodByteStep (hi : RxInv r) : GoodByteStep r reg b := by
  have hc : r.cnt < 64 := Nat.lt_succ_of_le hi.bound
  cases hs : r.state with
  | awaitSync => exact goodByteStep_of_awaitSync reg b hc hs
  | awaitLength => exact goodByteStep_of_awaitLength reg b hc hs
  | awaitIdentifier => exact goodByteStep_of_awaitIdentifier reg b hc hs
  | accumulatePayload => exact goodByteStep_of_accumulatePayload reg b hi hs

end GoodByteStep

/-- Settles O17: the registers, the label and the frame that `GoodByteStep` names do not depend on the state. -/
theorem byteStepsReadOnlyParserAndRegistry : Obligations.ByteStepsReadOnlyParserAndRegistry := by
  intro b s hi
  cases hi.goodByteStep s.reg b with
  | parsed o r h => exact ⟨r, none, [.outcome o], h⟩
  | handedOff l hd id payload _ _ _ o r h =>
    refine ⟨r, some { id := id, handler := hd, payload := payload }, [.outcome o, .dispatch id hd payload],
      fun u hr hreg => ?_⟩
    rw [h u hr hreg]
    simp [dispatch, logOutcome, logEvent]

/-- Settles O18: a frame is handed off only at the last byte of a collected one, with that byte its checksum. -/
theorem onlyWholeFramesAreDispatched : Obligations.OnlyWholeFramesAreDispatched := by
  intro b s t d hi hd ht htd
  cases hi.goodByteStep s.reg b with
  | parsed o r h =>
    obtain rfl := Host.Outcome.next.inj ((h s rfl rfl).symm.trans ht)
    exact absurd (hd.symm.trans htd) nofun
  | handedOff l hd id payload hf hl hb o r h =>
    obtain rfl := Host.Outcome.next.inj ((h s rfl rfl).symm.trans ht)
    obtain rfl := Option.some.inj htd
    have hl : l = payload.length + 4 := by rw [← hl, hf.cnt]
    have hmax : payload.length ≤ 60 := by have := hf.max; omega
    refine ⟨_, hf.bytes, ?_, hmax, hf.handler⟩
    rw [← hb, hf.chk, hl]
    exact eq_encodeFrame (toNat_lengthByte hmax)

end Sys2Proof.Machine
end

section
/-! SUPPORT. A received frame handed to its handler (R97), and the begin of a poll and its end (R98, R101, R102). -/

namespace Sys2Proof

/-- A frame's bytes name its identifier and its payload (R66). -/
theorem encodeFrame_inj {id id' : Byte} {payload payload' : List Byte}
    (h : encodeFrame id payload = encodeFrame id' payload') : id = id' ∧ payload = payload' := by
  refine ⟨?_, ?_⟩
  · rw [encodeFrame_eq, encodeFrame_eq] at h
    injection h with _ h
    injection h with _ h
    exact (List.cons.inj h).1
  · rw [← payload_of_encodeFrame id payload, h, payload_of_encodeFrame]

namespace Machine

variable {s : State} {d : Dispatch} {i : Instr} {id : Byte} {payload : List Byte}

/-! ## The handler of a frame -/

/-- The meaning of a received row is the invocation of its frame's handler, whatever its operands are (R97). -/
theorem exec_eq_invokeHandler (ht : i.transmittedOnly = false) (hf : i.frame? = some (id, payload)) (s : State) :
    exec i s = invokeHandler id payload s := by
  cases i with
  | cmd id payload => cases hf; rfl
  | hsReq rest => cases hf; rfl
  | hsConfirm c rest => cases hf; rfl
  | hsEmpty => cases hf; rfl
  | hsId _ | hsOk | hsErr => cases ht
  | rxSync _ | rxLen _ | rxId _ | rxAcc _ | poll | send _ _ | register _ _ | getNodeId => cases hf

/-- A user handler runs on the frame from now on. -/
theorem invokeHandler_user {tag : Nat} (hd : s.disp = some d) (ha : s.active = none) (hu : d.handler = .user tag) :
    invokeHandler d.id d.payload s = .next { s with active := some d } := by
  simp [invokeHandler, hd, ha, hu]

/-- The handshake responder answers. -/
theorem invokeHandler_hs (hd : s.disp = some d) (ha : s.active = none) (hh : d.handler = .hs) :
    invokeHandler d.id d.payload s = respond d.payload { s with active := s.disp } := by
  simp [invokeHandler, hd, ha, hh]

/-- No handler is invoked twice, or with what has not been handed off (log 21). -/
theorem invokeHandler_fault
    (h : s.active ≠ none ∨ ∀ hd, s.disp ≠ some { id := id, handler := hd, payload := payload }) :
    invokeHandler id payload s = .fault .frameNotDispatched := by
  unfold invokeHandler
  split
  · rename_i d hd ha
    refine if_neg ?_
    rintro ⟨rfl, rfl⟩
    exact h.elim (absurd ha) fun hn => hn d.handler hd
  · rfl

/-- Settles O28: the frame in `disp` goes to its user handler. -/
theorem framesAreDeliveredToTheLatchedHandler : Obligations.FramesAreDeliveredToTheLatchedHandler :=
  fun _ _ _ s ht hf hu hd ha => (exec_eq_invokeHandler ht hf s).trans (invokeHandler_user hd ha hu)

/-- Settles O29: each received row invokes the handler of its frame. -/
theorem aHandlerIsInvokedOnlyOnce : Obligations.AHandlerIsInvokedOnlyOnce :=
  fun _ _ _ s ht hf h => (exec_eq_invokeHandler ht hf s).trans (invokeHandler_fault h)

/-- Settles O32: the responder answers the payload and does not see the identifier. -/
theorem theResponderAnswersUserFramesToo : Obligations.TheResponderAnswersUserFramesToo := by
  intro id payload s hd ha hp
  have hexec : exec (.cmd id payload) s = respond payload { s with active := s.disp } := invokeHandler_hs hd ha rfl
  refine ⟨fun he => ?_, fun p rest he => ?_⟩
  · rw [hexec, he, respond]
  · obtain ⟨t, ht, hsent, honly, hactive⟩ := respond_writes_reply (s := { s with active := s.disp }) p rest hp
    exact ⟨t, hexec.trans (he ▸ ht), { hsent with }, { honly with }, hactive⟩

/-- Settles O40: the bytes decode to the instruction of that frame and of no other. -/
theorem aStepRunsTheDispatchedFrame : Obligations.AStepRunsTheDispatchedFrame := by
  intro s d i hs hp hh hd ha hi
  obtain ⟨id, payload, -, rfl, he⟩ := decodeFrame_eq_ok (bs := encodeFrame d.id d.payload) hi
  rw [List.append_nil] at he
  obtain ⟨hid, hpayload⟩ := encodeFrame_inj he
  rw [step_of_sched_nil hs, blockStep_of_handedOff hp hh hd ha, exec_frameInstr, hid, hpayload]

/-- A running handler with no `send` of its own in progress returns at once (R97). -/
theorem handlerReturns_of_running {tag : Nat} (h : runningHandler s = some tag) (hn : ¬ sendInProgress s) :
    handlerReturns s = .next (handlerReturned s) := by
  simp only [handlerReturns, h, if_neg hn]

/-- Settles O43: the return sends the poll to line 4 of R98, which is the block's next step. -/
theorem aReturningHandlerEndsThePoll : Obligations.AReturningHandlerEndsThePoll := by
  intro s ms d tag hs ha hu hr hp hh hpoll
  have hrun : runningHandler { s with sched := .block :: ms } = some tag := runningHandler_of_active ha hu hr
  have hn : ¬ sendInProgress { s with sched := .block :: ms } := by simp [sendInProgress, hp, hh]
  calc
    steps 2 s = andThen (handlerReturns { s with sched := .block :: ms }) (steps 1) := by
      rw [steps_succ, step_of_sched_cons hs, runMove]
    _ = steps 1 (handlerReturned { s with sched := .block :: ms }) := by
      rw [handlerReturns_of_running hrun hn, andThen_next]
    _ = .next (pollEnd (handlerReturned { s with sched := ms })) :=
      steps_of_sched_block 0 rfl (blockStep_of_pollEnding hp hh rfl hpoll rfl)
    _ = _ := by simp [pollEnd, handlerReturned, logEvent, hr]

/-! ## The poll -/

/-- Settles O36: by the first test of `POLL`. -/
theorem pollIsNotReentrant : Obligations.PollIsNotReentrant := fun _ ha => if_pos ha

theorem execPoll_persist (ha : s.pollActive = false) (hp : s.params.rxPartialPolicy = .persist) :
    execPoll s = .next (logEvent .pollStart { s with pollActive := true, pollEnding := false }) := by
  simp [execPoll, ha, hp]

theorem execPoll_dropAtPollStart (ha : s.pollActive = false) (hp : s.params.rxPartialPolicy = .dropAtPollStart) :
    execPoll s = .next (logEvent .pollStart (rxReset { s with pollActive := true, pollEnding := false })) := by
  simp [execPoll, ha, hp]

/-- Settles O35: by the policy. -/
theorem pollBegins : Obligations.PollBegins := by
  intro s ha
  cases hp : s.params.rxPartialPolicy with
  | persist =>
    exact ⟨_, execPoll_persist ha hp, rfl, rfl, rfl, fun _ => rfl, nofun, rfl, rfl, rfl, rfl, rfl, rfl, rfl, rfl, rfl,
      rfl, rfl, rfl⟩
  | dropAtPollStart =>
    exact ⟨_, execPoll_dropAtPollStart ha hp, rfl, rfl, rfl, nofun,
      fun _ => ⟨parserEmpty_rxResetRegs _, sameOutside_refl _⟩, rfl, rfl, rfl, rfl, rfl, rfl, rfl, rfl, rfl, rfl, rfl,
      rfl⟩

end Machine
end Sys2Proof
end

section
/-! SUPPORT. A scan (R98 lines 1 and 2): a step reads a byte and takes its byte step, which is the one the framer takes on
that byte alone. So a scan runs through the bytes of `RXQ` as `feedBytes` does, up to the byte that hands a frame off. -/

namespace Sys2Proof.Machine

/-- `s` with other bytes to read. -/
abbrev withRxq (q : List Byte) (s : State) : State := { s with tp := { s.tp with rxq := q } }

/-- The framer cannot tell the two states apart (R87), and both have handed off the same frame or none. -/
structure SameFramer (u s : State) : Prop where
  rx : s.rx = u.rx
  reg : s.reg = u.reg
  disp : s.disp = u.disp

section Scan

variable {s t u v : State} {b : Byte} {q bs rest : List Byte}

/-! ## One step -/

/-- R98 lines 1 and 2. -/
theorem Scanning.step_byte (hs : Scanning s) (hq : s.tp.rxq = b :: q) :
    step s = exec (decodeByteStep (rxStateCode s.rx.state) b) (afterRead b q s) := by
  have hturn : turn s = .byteStep (decodeByteStep (rxStateCode s.rx.state) b) := by
    simp [turn, hs.phase, hs.held, hs.disp, hs.pollActive, hs.pollEnding, hq]
  rw [step_of_sched_nil hs.sched]
  simp only [blockStep, hturn, transportRead_cons hq, andThen_next]

/-- R98 line 1 with no byte available. -/
theorem Scanning.step_scanEnd (hs : Scanning s) (hq : s.tp.rxq = []) : step s = .next (scanEnd s) := by
  have hturn : turn s = .scanEnd := by
    simp [turn, hs.phase, hs.held, hs.disp, hs.pollActive, hs.pollEnding, hq]
  rw [step_of_sched_nil hs.sched]
  simp only [blockStep, hturn]

/-- Settles O39: a byte is read and its byte step taken, or lines 1 and 4 of R98 end the poll. -/
theorem aStepRunsTheSelectedByteStep : Obligations.AStepRunsTheSelectedByteStep := by
  refine ⟨fun s b q i hs hq hi => ?_, fun s hs hq => ?_⟩
  · obtain rfl : decodeByteStep (rxStateCode s.rx.state) b = i := by simpa [decode] using hi
    exact hs.step_byte hq
  · have hend : step (scanEnd s) = .next (pollEnd (scanEnd s)) :=
      (step_of_sched_nil (s := scanEnd s) hs.sched).trans
        (blockStep_of_pollEnding hs.phase hs.held hs.disp hs.pollActive rfl)
    rw [steps_succ, hs.step_scanEnd hq, andThen_next, steps_succ, hend]
    simp [steps, pollEnd, scanEnd, logEvent, hs.pollEnding]

/-- A scan goes on after a byte step that hands nothing off. -/
theorem Scanning.of_onlyRx (hs : Scanning s) (h : OnlyRx s t) (hd : t.disp = none) : Scanning t where
  pollActive := h.pollActive.trans hs.pollActive
  pollEnding := h.pollEnding.trans hs.pollEnding
  disp := hd
  phase := h.tx ▸ hs.phase
  held := h.held.trans hs.held
  sched := h.sched.trans hs.sched

theorem ByteEffect.rxInv (h : ByteEffect s t) (hi : RxInv s.rx) : RxInv t.rx := by
  cases h with
  | parsed o r hr => exact hr hi
  | handedOff o r d _ hr _ => exact hr hi

/-! ## A scan ends -/

/-- A byte available is read, and the scan goes on or a frame has been handed off. -/
theorem Scanning.step_reads (hs : Scanning s) (hi : RxInv s.rx) (hq : s.tp.rxq = b :: q) :
    ∃ t, step s = .next t ∧ t.tp.rxq = q ∧ (t.disp ≠ none ∨ (RxInv t.rx ∧ Scanning t)) := by
  obtain ⟨r, d, es, hexec⟩ := byteStepsReadOnlyParserAndRegistry b (afterRead b q s) hi
  have heffect := selected_byteStep_effect (hexec _ rfl rfl)
  refine ⟨_, (hs.step_byte hq).trans (hexec _ rfl rfl), rfl, ?_⟩
  by_cases hd : d.or (afterRead b q s).disp = none
  · have hread : Scanning (afterRead b q s) := { hs with }
    exact Or.inr ⟨heffect.rxInv hi, hread.of_onlyRx heffect.onlyRx hd⟩
  · exact Or.inl hd

/-- R99: by induction on the bytes available. -/
theorem Scanning.ends (q : List Byte) (s : State) (hs : Scanning s) (hi : RxInv s.rx) (hq : s.tp.rxq = q) :
    ∃ k t, k ≤ q.length + 1 ∧ steps k s = .next t ∧ (t.disp ≠ none ∨ (t.pollEnding = true ∧ t.tp.rxq = [])) := by
  induction q generalizing s with
  | nil => exact ⟨1, scanEnd s, Nat.le_refl 1, by rw [steps_succ, hs.step_scanEnd hq]; rfl, Or.inr ⟨rfl, hq⟩⟩
  | cons b q ih =>
    obtain ⟨t, ht, hrest, hd | ⟨hi, hs⟩⟩ := hs.step_reads hi hq
    · exact ⟨1, t, by simp, by rw [steps_succ, ht]; rfl, Or.inl hd⟩
    · obtain ⟨k, t', hk, ht', hend⟩ := ih t hs hi hrest
      exact ⟨k + 1, t', Nat.succ_le_succ hk, by rw [steps_succ, ht, andThen_next, ht'], hend⟩

/-! ## A scan and the framer on the same bytes -/

theorem OnlyRx.trans (h : OnlyRx s t) (h' : OnlyRx t u) : OnlyRx s u where
  pollActive := h'.pollActive.trans h.pollActive
  pollEnding := h'.pollEnding.trans h.pollEnding
  active := h'.active.trans h.active
  tx := h'.tx.trans h.tx
  held := h'.held.trans h.held
  handlerReturning := h'.handlerReturning.trans h.handlerReturning
  reg := h'.reg.trans h.reg
  nodeId := h'.nodeId.trans h.nodeId
  tp := h'.tp.trans h.tp
  params := h'.params.trans h.params
  hostReq := h'.hostReq.trans h.hostReq
  sched := h'.sched.trans h.sched
  result := h'.result.trans h.result

theorem OnlyRx.withRxq (h : OnlyRx s t) (q : List Byte) : OnlyRx (withRxq q s) (withRxq q t) :=
  { h with tp := congrArg ({ · with rxq := q }) h.tp }

/-- The step of a scan does to the framer what the byte step of the byte it reads does. -/
theorem Scanning.step_sameFramer (hs : Scanning s) (h : SameFramer u s) (hi : RxInv u.rx) (hq : s.tp.rxq = b :: q)
    (hv : exec (decodeByteStep (rxStateCode u.rx.state) b) u = .next v) :
    ∃ t, step s = .next t ∧ SameFramer v t ∧ OnlyRx (withRxq q s) t := by
  obtain ⟨r, d, es, hexec⟩ := byteStepsReadOnlyParserAndRegistry b u hi
  obtain rfl := Host.Outcome.next.inj ((hexec u rfl rfl).symm.trans hv)
  refine ⟨_, (hs.step_byte hq).trans (hexec (afterRead b q s) h.rx h.reg), ⟨rfl, h.reg, ?_⟩, by constructor <;> rfl⟩
  simp [h.disp]

/-- Bytes that hand nothing off leave no frame handed off on the way. -/
theorem disp_none_of_feedBytes (h : feedBytes bs u = .next v) (hd : v.disp = none) : u.disp = none := by
  induction bs generalizing u with
  | nil =>
    cases h
    exact hd
  | cons b bs ih =>
    obtain ⟨w, hw, hrest⟩ := andThen_eq_next h
    have hwd : w.disp = none := ih hrest
    cases selected_byteStep_effect hw with
    | parsed o r _ => exact hwd
    | handedOff o r d _ _ _ => exact absurd hwd nofun

/-- As long as nothing is handed off, a scan runs through the bytes of `RXQ` as the framer does. -/
theorem Scanning.steps_sameFramer (hs : Scanning s) (h : SameFramer u s) (hi : RxInv u.rx)
    (hq : s.tp.rxq = bs ++ rest) (hv : feedBytes bs u = .next v) (hd : v.disp = none) :
    ∃ t, steps bs.length s = .next t ∧ SameFramer v t ∧ OnlyRx (withRxq rest s) t := by
  induction bs generalizing s u with
  | nil =>
    cases hv
    obtain rfl : s.tp.rxq = rest := hq
    exact ⟨s, rfl, h, by constructor <;> rfl⟩
  | cons b bs ih =>
    obtain ⟨w, hw, hrest⟩ := andThen_eq_next hv
    obtain ⟨t, ht, hsame, honly⟩ := hs.step_sameFramer h hi hq hw
    have hread : Scanning (withRxq (bs ++ rest) s) := { hs with }
    have hscan : Scanning t := hread.of_onlyRx honly (hsame.disp.trans (disp_none_of_feedBytes hrest hd))
    have hqt : t.tp.rxq = bs ++ rest := congrArg Transport.rxq honly.tp
    obtain ⟨t', ht', hsame', honly'⟩ := ih hscan hsame ((selected_byteStep_effect hw).rxInv hi) hqt hrest
    exact ⟨t', by rw [List.length_cons, steps_succ, ht, andThen_next, ht'], hsame', (honly.withRxq rest).trans honly'⟩

/-- One byte more, which may hand a frame off. -/
theorem Scanning.steps_sameFramer_last (hs : Scanning s) (hi : RxInv s.rx) (hq : s.tp.rxq = bs ++ b :: rest)
    (hu : feedBytes bs s = .next u) (hiu : RxInv u.rx) (hd : u.disp = none)
    (hv : exec (decodeByteStep (rxStateCode u.rx.state) b) u = .next v) :
    ∃ t, steps (bs.length + 1) s = .next t ∧ SameFramer v t ∧ OnlyRx (withRxq rest s) t := by
  obtain ⟨w, hw, hsame, honly⟩ := hs.steps_sameFramer ⟨rfl, rfl, rfl⟩ hi hq hu hd
  have hread : Scanning (withRxq (b :: rest) s) := { hs with }
  have hscan : Scanning w := hread.of_onlyRx honly (hsame.disp.trans hd)
  obtain ⟨t, ht, hsame', honly'⟩ := hscan.step_sameFramer hsame hiu (congrArg Transport.rxq honly.tp) hv
  exact ⟨t, by rw [steps_add, hw, andThen_next, steps_succ, ht]; rfl, hsame', (honly.withRxq rest).trans honly'⟩

end Scan

/-- Settles O58: a good state's RX registers are good. -/
theorem aScanEnds : Obligations.AScanEnds := fun s hi hs => hs.ends _ s hi.rx rfl

/-- Settles O59: the scan collects all bytes of the frame but the last as the framer does, and the last hands the frame
off. -/
theorem aScanDispatchesTheFrameAtTheFront : Obligations.AScanDispatchesTheFrameAtTheFront := by
  intro s id hd payload rest hi hs hstate hid hp hq
  have hb := toNat_lengthByte hp
  have hactive : s.active = none := by simpa [hs.disp] using hi.poll.active
  obtain ⟨u, hu, hin⟩ := inFrame_of_feedBytes hi.rx hstate hb hp hid
  have hfront : s.tp.rxq = (Config.sync :: BitVec.ofNat 8 (payload.length + 4) :: id :: payload) ++
      xorSum (Config.sync :: BitVec.ofNat 8 (payload.length + 4) :: id :: payload) :: rest := by
    rw [hq, encodeFrame_eq]
    simp only [List.cons_append, List.append_assoc, List.nil_append]
  obtain ⟨t, ht, hsame, honly⟩ := hs.steps_sameFramer_last hi.rx hfront hu hin.good (hin.disp.trans hs.disp)
    (hin.dispatches hb hid)
  have hparser : ParserEmpty t.rx := by
    rw [hsame.rx]
    exact parserEmpty_rxResetRegs _
  exact ⟨t, ht, hsame.disp, honly.active.trans hactive, congrArg Transport.rxq honly.tp, hparser,
    honly.pollActive.trans hs.pollActive, honly.reg, honly.tx, by rw [honly.tp]⟩

end Sys2Proof.Machine
end

section
/-! SUPPORT. The serializer as the host meets it: a `send` is sent, refused or held (R106, R107, R110), a held operation
runs when the flush is over (R53, R55), and no move but the transport's own sees the write-error flag (R43, R111). -/

namespace Sys2Proof.Machine

/-! ## A send -/

/-- Settles O22: the serializer sends what is not too long. -/
theorem sendWritesTheEncodedFrame : Obligations.SendWritesTheEncodedFrame := by
  intro id payload s hp hl
  obtain ⟨t, ht, hsent, honly, hactive, -⟩ := serialise_spec id payload s hl
  exact ⟨t, (sendOp_sent id hp hl).trans ht, hsent, honly, hactive⟩

/-- Settles O23: the serializer refuses what is too long. -/
theorem oversizedSendOnlyReportsRefusal : Obligations.OversizedSendOnlyReportsRefusal :=
  fun id _ _ hp hl => sendOp_refused id hp hl

/-! ## A held operation -/

/-- With no flush in progress the oldest held operation comes before everything else (R53, R55). -/
theorem turn_of_held {s : State} {op : HostOp} {rest : List HostOp} (hp : s.tx.phase = .idle)
    (hh : s.held = op :: rest) : turn s = .heldOp op rest := by
  simp only [turn, hp, hh]

theorem blockStep_of_held {s : State} {op : HostOp} {rest : List HostOp} (hp : s.tx.phase = .idle)
    (hh : s.held = op :: rest) : blockStep s = exec op.instr { s with held := rest } := by
  simp only [blockStep, turn_of_held hp hh]

/-- Settles O24: a reply is a `send` like any other, each is held during a flush, and with the phase idle the block
turns to the oldest. -/
theorem sendsAreHeldDuringAFlush : Obligations.SendsAreHeldDuringAFlush := by
  refine ⟨fun id payload s hp => sendOp_held id payload hp, fun n s hp => ⟨?_, ?_, ?_⟩,
    fun op i rest s hs hp hh hi => ?_⟩
  · exact sendOp_held Config.hsId [n] hp
  · exact sendOp_held Config.hsId [Config.hsOk] hp
  · exact sendOp_held Config.hsId [Config.hsError] hp
  · obtain rfl : op.instr = i := by simpa using hi
    rw [step_of_sched_nil hs, blockStep_of_held hp hh]

/-! ## The write-error flag -/

section WriteError

variable {ms : List Move} {w : Bool}

theorem hostInvokes_withUnseen (op : HostOp) (s : State) :
    hostInvokes op (withUnseen ms w s) = mapUnseen ms w (hostInvokes op s) :=
  mapUnseen_ite (fun _ => exec_withUnseen op.instr s) fun _ => rfl

theorem runningHandler_withUnseen (s : State) : runningHandler (withUnseen ms w s) = runningHandler s := rfl

theorem handlerInvokes_withUnseen (op : HostOp) (s : State) :
    handlerInvokes op (withUnseen ms w s) = mapUnseen ms w (handlerInvokes op s) := by
  unfold handlerInvokes
  rw [runningHandler_withUnseen]
  cases runningHandler s with
  | some tag => exact mapUnseen_ite (fun _ => rfl) fun _ => exec_withUnseen op.instr s
  | none => rfl

theorem handlerReturns_withUnseen (s : State) :
    handlerReturns (withUnseen ms w s) = mapUnseen ms w (handlerReturns s) := by
  unfold handlerReturns
  rw [runningHandler_withUnseen]
  cases runningHandler s with
  | some tag =>
    exact congrArg Host.Outcome.next
      (apply_ite (withUnseen ms w) (sendInProgress s) { s with handlerReturning := true } (handlerReturned s)).symm
  | none => rfl

/-- No move sees the schedule or the write-error flag, and only the transport's own changes the flag (R24). -/
theorem runMove_withUnseen {m : Move} (hm : ∀ v, m ≠ .writeError v) (s : State) :
    runMove m (withUnseen ms w s) = mapUnseen ms w (runMove m s) := by
  cases m with
  | block => exact blockStep_withUnseen s
  | request op => exact hostInvokes_withUnseen op s
  | handlerCall op => exact handlerInvokes_withUnseen op s
  | handlerReturn => exact handlerReturns_withUnseen s
  | writeError v => exact absurd rfl (hm v)
  | arrive _ | sent | lost _ | rst _ => rfl

end WriteError

/-- What commutes with putting other values in the schedule and the flag keeps the flag, and does the same under another
value of it. -/
theorem werr_noninterference {f : State → Ans State} {s t : State} (v : Bool)
    (hf : ∀ ms w, f (withUnseen ms w s) = mapUnseen ms w (f s)) (h : f s = .next t) :
    t.tp.werr = s.tp.werr ∧
      f { s with tp := { s.tp with werr := v } } = .next { t with tp := { t.tp with werr := v } } := by
  have hself := hf s.sched s.tp.werr
  rw [withUnseen_self, h] at hself
  have ht : t = withUnseen s.sched s.tp.werr t := Host.Outcome.next.inj hself
  refine ⟨congrArg (·.tp.werr) ht, ?_⟩
  calc
    f (withUnseen s.sched v s) = mapUnseen s.sched v (f s) := hf s.sched v
    _ = .next (withUnseen s.sched v t) := congrArg (mapUnseen s.sched v) h
    _ = .next (withUnseen t.sched v t) := by rw [show t.sched = s.sched from congrArg (·.sched) ht]

/-- Settles O57: neither the block's own step nor a scheduled move sees the flag. -/
theorem theWriteErrorFlagHasNoEffect : Obligations.TheWriteErrorFlagHasNoEffect := by
  intro s t v hw h
  cases hs : s.sched with
  | nil =>
    rw [step_of_sched_nil hs] at h
    rw [step_of_sched_nil rfl, ← hs]
    exact werr_noninterference v (fun _ _ => blockStep_withUnseen s) h
  | cons m ms =>
    have hm : ∀ w, m ≠ .writeError w := fun w hmw => hw w ms (hmw ▸ hs)
    rw [step_of_sched_cons hs] at h
    rw [step_of_sched_cons rfl]
    exact werr_noninterference v (fun _ _ => runMove_withUnseen hm { s with sched := ms }) h

end Sys2Proof.Machine
end

section
/-! SUPPORT. The registry (R113 to R117): a registration binds one identifier or leaves a locked reserved entry, and no step
but reset does more to the registry than one registration. -/

namespace Sys2Proof.Machine

/-! ## The host operations on the registry and the identity -/

/-- R114. -/
theorem execRegister_locked {id : Byte} {s : State} (h : Handler) (hl : id = Config.hsId ∧ s.params.hsLocked = true) :
    execRegister id h s = .next (logEvent (.register id h false) s) := if_pos hl

/-- R113. -/
theorem execRegister_bound {id : Byte} {s : State} (h : Handler) (hl : ¬ (id = Config.hsId ∧ s.params.hsLocked = true)) :
    execRegister id h s = .next (logEvent (.register id h true) { s with reg := bindHandler s.reg id h }) := if_neg hl

/-- Settles O37: by whether the entry is the locked reserved one. -/
theorem registerBindsItsIdentifierOnly : Obligations.RegisterBindsItsIdentifierOnly := by
  intro i h s
  by_cases hl : i = Config.hsId ∧ s.params.hsLocked = true
  · exact ⟨_, execRegister_locked h hl, fun _ => rfl, fun hn => absurd hl hn⟩
  · exact ⟨_, execRegister_bound h hl, fun hp => absurd hp hl,
      fun _ => ⟨resolve_bind_same _ _ _, fun _ hj => resolve_bind_other _ _ hj, rfl⟩⟩

/-- Settles O38: it is the whole meaning of the operation. -/
theorem getNodeIdReturnsTheIdentity : Obligations.GetNodeIdReturnsTheIdentity := fun _ => rfl

/-! ## What a step does to the registry -/

/-- The registry `reg` afterwards, with `HS_LOCKED` being `locked`: as it was, or with one identifier bound or rebound, which
is not the locked reserved one (R113, R114). -/
inductive RegistryEffect (locked : Bool) (reg : Table Handler) : Table Handler → Prop where
  | same : RegistryEffect locked reg reg
  | bound (id : Byte) (h : Handler) (hl : ¬ (id = Config.hsId ∧ locked = true)) :
      RegistryEffect locked reg (bindHandler reg id h)

section Registry

variable {s t : State} {locked : Bool} {reg reg' : Table Handler}

theorem RegistryEffect.of_eq (h : reg' = reg) : RegistryEffect locked reg reg' := h ▸ .same

/-- Binding an identifier leaves the others bound (R116). -/
theorem RegistryEffect.keeps_binding (h : RegistryEffect locked reg reg') {i : Byte}
    (hi : (resolve reg i).isSome = true) : (resolve reg' i).isSome = true := by
  cases h with
  | same => exact hi
  | bound id h _ =>
    by_cases he : i = id
    · rw [he, resolve_bind_same]
      rfl
    · rwa [resolve_bind_other reg h he]

/-- The identifier that is bound is not the locked one (R114). -/
theorem RegistryEffect.keeps_lockedEntry (h : RegistryEffect true reg reg') :
    resolve reg' Config.hsId = resolve reg Config.hsId := by
  cases h with
  | same => rfl
  | bound id h hl =>
    have hid : Config.hsId ≠ id := fun e => hl ⟨e.symm, rfl⟩
    exact resolve_bind_other reg h hid

theorem OpEffect.registry (h : OpEffect s t) : RegistryEffect s.params.hsLocked s.reg t.reg := by
  cases h with
  | bound id h hl => exact .bound id h hl
  | send id payload t h => exact .of_eq (sendOp_sameControl h).1.reg
  | pollPersist _ _ | pollDrop _ _ | locked _ _ _ | nodeId => exact .same

/-- Of the block's own steps only those that run an operation can write the registry. -/
theorem BlockEffect.registry (h : BlockEffect s t) : RegistryEffect s.params.hsLocked s.reg t.reg := by
  cases h with
  | held _ op rest _ t h => exact (execOp_effect h).registry
  | request _ _ _ op rest _ t h => exact h.registry
  | frame _ d _ _ t h =>
    obtain ⟨_, -, hcontrol, -⟩ := invokeHandler_sameControl h
    exact .of_eq hcontrol.reg
  | byte _ _ _ _ b q _ t h => exact .of_eq (selected_byteStep_effect h).onlyRx.reg
  | nothing | flushed _ _ | returned _ _ _ _ _ _ | pollEnd _ _ _ _ | scanEnd _ _ _ _ _ => exact .same

/-- Of the agents' moves only an operation that a handler invokes can, reset aside. -/
theorem StepEffect.registry {m : Option Move} (h : StepEffect s m t) (hm : ∀ n, m ≠ some (.rst n)) :
    RegistryEffect s.params.hsLocked s.reg t.reg := by
  cases h with
  | block m t h _ => exact h.registry
  | called op a n _ _ _ t h => exact h.registry
  | rst n => exact absurd rfl (hm n)
  | arrive _ | sent | lost _ | writeError _ | invoked _ => exact .same
  | calledInSend _ _ _ _ _ _ | returned _ _ _ _ _ | returnedInSend _ _ _ _ _ => exact .same

/-- A step that is no reset performs at most one registration. -/
theorem step_registry (hr : ∀ n ms, s.sched ≠ .rst n :: ms) (h : step s = .next t) :
    RegistryEffect s.params.hsLocked s.reg t.reg :=
  (step_effect h).registry (head?_ne_rst hr)

end Registry

/-- Settles O51: a step does at most one registration, which removes no binding. -/
theorem bindingsAreNeverRemoved : Obligations.BindingsAreNeverRemoved := fun _ _ _ hr h hi =>
  (step_registry hr h).keeps_binding hi

/-- Settles O52: a registration under `HS_LOCKED` leaves the reserved entry. -/
theorem theLockedEntryNeverChanges : Obligations.TheLockedEntryNeverChanges := by
  intro s t hlocked hr h
  have hreg : RegistryEffect true s.reg t.reg := hlocked ▸ step_registry hr h
  exact hreg.keeps_lockedEntry

end Sys2Proof.Machine
end

section
/-! SUPPORT. The empty handshake frame (R122): the responder is handed its payload and has nothing to answer. -/

namespace Sys2Proof.Machine

/-- Settles O33: the row is its frame's invocation (R97), the latched handler is the responder, and the responder does
nothing on an empty payload. -/
theorem emptyHandshakeGetsNoReply : Obligations.EmptyHandshakeGetsNoReply := by
  intro s hd ha
  calc exec .hsEmpty s
    _ = invokeHandler Config.hsId [] s := exec_eq_invokeHandler rfl rfl s
    _ = respond [] { s with active := s.disp } := invokeHandler_hs hd ha rfl
    _ = .next { s with active := s.disp } := rfl

end Sys2Proof.Machine
end

section
/-! SUPPORT. The two turns in which the block's own step changes nothing: nothing is invoked (R140, R142), or a user
handler runs and the block waits for it (R151). -/

namespace Sys2Proof.Machine

/-- A quiescent block with nothing held and nothing invoked has nothing to do (R140, R142). -/
theorem blockStep_of_nothing_invoked {s : State} (hq : quiescent s) (hh : s.held = []) (hr : s.hostReq = []) :
    blockStep s = .next s := by
  obtain ⟨hpoll, hphase, hdisp⟩ := hq
  have hturn : turn s = .idle := by simp [turn, hphase, hh, hdisp, hpoll, hr]
  simp only [blockStep, hturn]

/-- With no `send` of its own in progress, a user handler that has not returned is waited for (R98 line 3, R151). -/
theorem blockStep_of_handlerRunning {s : State} {d a : Dispatch} {tag : Nat} (hp : s.tx.phase = .idle)
    (hh : s.held = []) (hd : s.disp = some d) (ha : s.active = some a) (hu : a.handler = .user tag)
    (hr : s.handlerReturning = false) : blockStep s = .next s := by
  have hturn : turn s = .handlerRuns := by simp [turn, hp, hh, hd, ha, hu, hr]
  simp only [blockStep, hturn]

/-- Settles O44: with nothing scheduled the step is the block's own, and each clause fixes the block's turn as one that
changes nothing. -/
theorem anIdleOrWaitingBlockDoesNothing : Obligations.AnIdleOrWaitingBlockDoesNothing := by
  refine ⟨fun s hq hh hr hs => ?_, fun s d tag hs hp hh hd ha hu hr => ?_⟩
  · exact (step_of_sched_nil hs).trans (blockStep_of_nothing_invoked hq hh hr)
  · exact (step_of_sched_nil hs).trans (blockStep_of_handlerRunning hp hh hd ha hu hr)

end Sys2Proof.Machine
end

section
/-! SUPPORT. The reset values (R142): the parser is empty, the registry holds the reserved entry alone, and no entry of a
buffer is valid. -/

namespace Sys2Proof.Machine

theorem parserEmpty_reset : ParserEmpty RxRegs.reset := parserEmpty_rxResetRegs RxRegs.reset

theorem resolve_registryReset_hsId : resolve registryReset Config.hsId = some .hs := rfl

theorem resolve_registryReset_other {i : Byte} (h : i ≠ Config.hsId) : resolve registryReset i = none := by
  have hkey : 255 ≠ i.toNat := fun e => h (BitVec.eq_of_toNat_eq e.symm)
  exact if_neg hkey

/-- An entry at the count or above is invalid, whatever the buffer holds there (R29, R30; log 5). -/
theorem bufLoad_invalid {valid : Nat} {m : Memory} {i : Nat} (h : i < 64) (hv : valid ≤ i) :
    bufLoad valid m i = .fault .invalidEntry := by
  have hcap : i < Config.bufCap := h
  have hinvalid : ¬ i < valid := Nat.not_lt.mpr hv
  simp only [bufLoad, if_pos hcap, if_neg hinvalid]

/-- Settles O10: the registry and the buffers by what their reset values hold, the other registers as R142 lists them. -/
theorem resetHoldsTheSpecsValues : Obligations.ResetHoldsTheSpecsValues :=
  ⟨parserEmpty_reset, rfl, rfl, rfl, rfl, rfl, resolve_registryReset_hsId, fun _ => resolve_registryReset_other, rfl, rfl,
    rfl, fun i hi => ⟨bufLoad_invalid hi (Nat.zero_le i), bufLoad_invalid hi (Nat.zero_le i)⟩⟩

/-- Settles O11: the step takes the reset move off the schedule and applies the reset, which writes the registers of the
block and nothing else. -/
theorem theResetInputRestartsTheBlock : Obligations.TheResetInputRestartsTheBlock := by
  intro s n ms hs
  have hstep : step s = .next (applyReset n { s with sched := ms }) := step_of_sched_cons hs
  exact ⟨_, hstep, parserEmpty_reset, rfl, rfl, rfl, rfl, rfl, rfl, rfl, rfl, resolve_registryReset_hsId,
    fun _ => resolve_registryReset_other, rfl, rfl, rfl, rfl, rfl, rfl⟩

end Sys2Proof.Machine
end
